-- ==== Sys2Proof/Word.lean ====
section
/-! DEFINITION. The two widths of the machine (00_scope.md R8): every data value is a byte, every instruction field a nibble. -/

namespace Sys2Proof

/-- An 8-bit unsigned value: a register, a memory cell, an ALU operand or result, an instruction byte (00_scope.md R8, R10). -/
abbrev Byte := BitVec 8

/-- A 4-bit unsigned value: an opcode or an operand (00_scope.md R8; 30_encoding.md R80). -/
abbrev Nibble := BitVec 4

end Sys2Proof
end

