-- ==== Sys2Proof/Syntax.lean ====
section
/-! DEFINITION. The instructions: one constructor per row of spec/opcode_table.json (30_encoding.md R84). -/

namespace Sys2Proof

/-- A decoded instruction. Every constructor carries the low nibble of its byte, because every step latches that nibble into
`Or` whether or not the instruction uses it (10_state.md R26; 30_encoding.md R88). The four unassigned opcodes are cases of their
own (44_system.md R167). -/
inductive Instr where
  /-- NOP, opcode 0 (44_system.md R163); the operand is ignored. -/
  | nop (operand : Nibble)
  /-- LDA, opcode 1 (41_load_store.md R131); the operand is a data address. -/
  | lda (addr : Nibble)
  /-- STA, opcode 2 (41_load_store.md R132); the operand is a data address. -/
  | sta (addr : Nibble)
  /-- LDB, opcode 3 (41_load_store.md R133); the operand is a data address. -/
  | ldb (addr : Nibble)
  /-- STB, opcode 4 (41_load_store.md R134); the operand is a data address. -/
  | stb (addr : Nibble)
  /-- ADD, opcode 5 (42_alu.md R143); the operand is ignored. -/
  | add (operand : Nibble)
  /-- SUB, opcode 6 (42_alu.md R144); the operand is ignored. -/
  | sub (operand : Nibble)
  /-- JMP, opcode 7 (43_control_transfer.md R151); the operand is the target. -/
  | jmp (target : Nibble)
  /-- JNZ, opcode 8 (43_control_transfer.md R152); the operand is the target. -/
  | jnz (target : Nibble)
  /-- JNC, opcode 9 (43_control_transfer.md R153); the operand is the target. -/
  | jnc (target : Nibble)
  /-- Unassigned opcode 10 (44_system.md R166); the operand is ignored. -/
  | unassigned10 (operand : Nibble)
  /-- Unassigned opcode 11 (44_system.md R166); the operand is ignored. -/
  | unassigned11 (operand : Nibble)
  /-- Unassigned opcode 12 (44_system.md R166); the operand is ignored. -/
  | unassigned12 (operand : Nibble)
  /-- Unassigned opcode 13 (44_system.md R166); the operand is ignored. -/
  | unassigned13 (operand : Nibble)
  /-- HLT, opcode 14 (44_system.md R164); the operand is ignored. -/
  | hlt (operand : Nibble)
  /-- OUT, opcode 15 (44_system.md R165); the operand is ignored. -/
  | out (operand : Nibble)
  deriving DecidableEq, Repr

end Sys2Proof
end

