-- ==== Sys2Proof/WellFormed.lean ====
section
/-! DEFINITION. Which instructions are canonical. The hardware does not check this (30_encoding.md R88; 90_conflicts.md C2): it is the
encoding a well-formed program uses, and no meaning, decoding or statement of the model depends on it. -/

namespace Sys2Proof

/-- Whether an instruction uses its operand: as a data address or as a jump target (30_encoding.md R81). -/
def Instr.usesOperand : Instr → Bool
  | .nop _ => false
  | .lda _ => true
  | .sta _ => true
  | .ldb _ => true
  | .stb _ => true
  | .add _ => false
  | .sub _ => false
  | .jmp _ => true
  | .jnz _ => true
  | .jnc _ => true
  | .unassigned10 _ => false
  | .unassigned11 _ => false
  | .unassigned12 _ => false
  | .unassigned13 _ => false
  | .hlt _ => false
  | .out _ => false

/-- The canonical encoding: the operand nibble is 0 when the instruction does not use it (00_scope.md R14; 30_encoding.md R88). An
instruction that fails this check still decodes, encodes and executes. -/
def Instr.wellFormed : Instr → Bool
  | .nop p => decide (p = 0)
  | .lda _ => true
  | .sta _ => true
  | .ldb _ => true
  | .stb _ => true
  | .add p => decide (p = 0)
  | .sub p => decide (p = 0)
  | .jmp _ => true
  | .jnz _ => true
  | .jnc _ => true
  | .unassigned10 p => decide (p = 0)
  | .unassigned11 p => decide (p = 0)
  | .unassigned12 p => decide (p = 0)
  | .unassigned13 p => decide (p = 0)
  | .hlt p => decide (p = 0)
  | .out p => decide (p = 0)

end Sys2Proof
end

