-- ==== Sys2Proof/Decode.lean ====
section
/-! DEFINITION. Decode and encode (30_encoding.md sections 1 to 4). Decode of a byte is total (R82); the only thing a decoder can
lack is a byte to read, and it says so by name. -/

namespace Sys2Proof

/-- The opcode field of an instruction byte, `byte[7:4]` (30_encoding.md R80, R82). -/
def opcodeField (byte : Byte) : Nibble := byte.extractLsb' 4 4

/-- The operand field of an instruction byte, `byte[3:0]` (30_encoding.md R80, R82). -/
def operandField (byte : Byte) : Nibble := byte.extractLsb' 0 4

/-- The instruction selected by an opcode, with its operand (30_encoding.md R84). The opcode's bits 3 down to 0 are read as the
opcode table writes them, and the sixteen cases are all there is: no case falls through to another (44_system.md R167). -/
def instrOf (opcode operand : Nibble) : Instr :=
  match opcode.getLsbD 3, opcode.getLsbD 2, opcode.getLsbD 1, opcode.getLsbD 0 with
  | false, false, false, false => .nop operand
  | false, false, false, true  => .lda operand
  | false, false, true,  false => .sta operand
  | false, false, true,  true  => .ldb operand
  | false, true,  false, false => .stb operand
  | false, true,  false, true  => .add operand
  | false, true,  true,  false => .sub operand
  | false, true,  true,  true  => .jmp operand
  | true,  false, false, false => .jnz operand
  | true,  false, false, true  => .jnc operand
  | true,  false, true,  false => .unassigned10 operand
  | true,  false, true,  true  => .unassigned11 operand
  | true,  true,  false, false => .unassigned12 operand
  | true,  true,  false, true  => .unassigned13 operand
  | true,  true,  true,  false => .hlt operand
  | true,  true,  true,  true  => .out operand

/-- The instruction an instruction byte stands for (30_encoding.md R82, R84): a total function. -/
def decode (byte : Byte) : Instr := instrOf (opcodeField byte) (operandField byte)

/-- Why a decoder that is handed a sequence of bytes can fail: nothing in the spec makes a byte undecodable (30_encoding.md R82). -/
inductive DecodeError where
  /-- There is no byte to decode. -/
  | noByte
  deriving DecidableEq, Repr

/-- Decode the first instruction of a sequence of bytes and return the rest: every instruction is one byte long (30_encoding.md R80). -/
def decodeBytes : List Byte → Except DecodeError (Instr × List Byte)
  | [] => .error .noByte
  | byte :: rest => .ok (decode byte, rest)

/-- The opcode nibble of an instruction (30_encoding.md R84). -/
def Instr.opcode : Instr → Nibble
  | .nop _ => 0
  | .lda _ => 1
  | .sta _ => 2
  | .ldb _ => 3
  | .stb _ => 4
  | .add _ => 5
  | .sub _ => 6
  | .jmp _ => 7
  | .jnz _ => 8
  | .jnc _ => 9
  | .unassigned10 _ => 10
  | .unassigned11 _ => 11
  | .unassigned12 _ => 12
  | .unassigned13 _ => 13
  | .hlt _ => 14
  | .out _ => 15

/-- The operand nibble of an instruction, used or not (30_encoding.md R81, R88). -/
def Instr.operand : Instr → Nibble
  | .nop p => p
  | .lda p => p
  | .sta p => p
  | .ldb p => p
  | .stb p => p
  | .add p => p
  | .sub p => p
  | .jmp p => p
  | .jnz p => p
  | .jnc p => p
  | .unassigned10 p => p
  | .unassigned11 p => p
  | .unassigned12 p => p
  | .unassigned13 p => p
  | .hlt p => p
  | .out p => p

/-- The byte with opcode `opcode` and operand `operand`, `(opcode << 4) | operand` (30_encoding.md R83; 90_conflicts.md C1). -/
def packByte (opcode operand : Nibble) : Byte :=
  (opcode.setWidth 8 <<< 4) ||| operand.setWidth 8

/-- The byte of an instruction (30_encoding.md R83). -/
def encode (i : Instr) : Byte := packByte i.opcode i.operand

/-- The byte that the low `nbits` bits of `w` make, every bit above them being 0. -/
def tableByte (nbits w : Nat) : Byte := BitVec.ofNat 8 (w % 2 ^ nbits)

/-- The instruction the decoder reads from the bits `w` of a row of spec/opcode_table.json. Every instruction is one byte
(30_encoding.md R80), so more than eight bits are no instruction's. -/
def decodeTableWord (nbits w : Nat) : Option Instr :=
  if nbits ≤ 8 then
    match decodeBytes [tableByte nbits w] with
    | .ok (i, _) => some i
    | .error _ => none
  else none

end Sys2Proof
end

