-- ==== Sys2Proof/Config.lean ====
section
/-! DEFINITION. What a configuration of the core fixes (00_scope.md R7). The spec leaves no value open
(93_implementation_defined.md: nothing is `any value`), so there is no free value here. -/

namespace Sys2Proof

/-- `MEM_SIZE` of the reference configuration (00_scope.md R7). -/
def Config.refMemSize : Nat := 16

/-- `MAX_STEPS` of the reference configuration (00_scope.md R7; no rule of the core depends on it). -/
def Config.refMaxSteps : Nat := 3000

/-- The legal range of `MEM_SIZE`: 1 to 255 inclusive (00_scope.md R7; 92_eei_decisions.md D1). -/
def Config.legalMemSize (memSize : Nat) : Bool := decide (1 ≤ memSize) && decide (memSize ≤ 255)

end Sys2Proof
end

