-- ==== Sys2Proof/Machine/State.lean ====
section
/-! DEFINITION. The state of the machine (10_state.md R20), the reasons a step can stop, and the state after reset. -/

namespace Sys2Proof.Machine

/-- Where an out-of-bounds address was met (60_exceptions.md R175). -/
inductive FaultKind where
  /-- The data address of LDA, STA, LDB or STB. -/
  | data
  /-- The target of a taken JMP, JNZ or JNC. -/
  | jump
  /-- The PC, by sequential advance past the last address. -/
  | runoff
  deriving DecidableEq, Repr

/-- The record `OutOfBoundsAddress(kind, addr)` (10_state.md R30; 60_exceptions.md R175). -/
structure OutOfBoundsAddress where
  /-- What the address was used for. -/
  kind : FaultKind
  /-- The offending address. -/
  addr : Byte
  deriving DecidableEq, Repr

/-- One report of an unassigned opcode (10_state.md R32; 60_exceptions.md R174). -/
structure DiagRecord where
  /-- The address the byte was fetched from. -/
  addr : Byte
  /-- The byte. -/
  byte : Byte
  deriving DecidableEq, Repr

/-- The memory's contents: (address, byte) pairs in one canonical form, `Memory.wf` of Machine/Ops.lean. -/
abbrev Memory := List Host.Cell

/-- The whole state of the machine, under the spec's own names (10_state.md R20; 00_scope.md R11). -/
structure State where
  /-- Accumulator A (10_state.md R21). -/
  A : Byte
  /-- Accumulator B (10_state.md R22). -/
  B : Byte
  /-- The address of the next instruction byte to fetch (10_state.md R23). -/
  PC : Byte
  /-- The opcode last decoded (10_state.md R25). -/
  Ir : Nibble
  /-- The operand last decoded (10_state.md R26). -/
  Or : Nibble
  /-- The zero flag (10_state.md R28). -/
  zero : Bool
  /-- The carry flag: overflow of ADD, borrow of SUB (10_state.md R28). -/
  carry : Bool
  /-- The engine is HALTED (10_state.md R29). -/
  halted : Bool
  /-- The machine is FAULTED, and why (10_state.md R30). -/
  fault : Option OutOfBoundsAddress
  /-- The memory's contents (10_state.md R34). -/
  mem : Memory
  /-- The output stream, oldest first (10_state.md R31). -/
  out : List Byte
  /-- The reports of unassigned opcodes, oldest first (10_state.md R32). -/
  diag : List DiagRecord
  /-- The number of steps begun (10_state.md R33). -/
  steps : Nat
  /-- The parameter `MEM_SIZE` (00_scope.md R7; 10_state.md R38), carried in the state so that one step covers every configuration; no
  step changes it. DESIGN CHOICE, log entry 1. -/
  memSize : Nat
  deriving DecidableEq, Repr

/-- Why a step has no next state. Each constructor is for a state from which the spec gives no step, and each is safe: the model
stops where the spec says no further state exists. -/
inductive Fault where
  /-- Raised by `step` in a HALTED state: "no further steps" (40_step_cycle.md R117). Safe: the spec gives a HALTED state no step. -/
  | machineHalted
  /-- Raised by `step` in a FAULTED state, with the record that ended the run (40_step_cycle.md R117; 60_exceptions.md R176).
  Safe: the spec gives a FAULTED state no step. -/
  | machineFaulted (kind : FaultKind) (addr : Byte)
  /-- Raised by `step` where a RUNNING state has its PC outside memory: the fetch is never performed (20_memory.md R58). No state
  reached from reset is one (10_state.md R37). Safe. -/
  | fetchOutOfRange (addr : Byte)
  deriving DecidableEq, Repr

/-- Why an instruction is refused. -/
inductive Refusal where
  /-- Raised by `exec` for an instruction that has no meaning yet. Safe. No instruction of this hardware is one. -/
  | notModelled (mnemonic : String)
  deriving DecidableEq, Repr

/-- The state right after reset in the reference configuration, with the all-zero image (70_reset_and_hazards.md R200, R201;
10_state.md R39): RUNNING, every register and flag zero, nothing in memory but zeros. Log entries 7 and 8 say how an image comes in. -/
def State.reset : State where
  A := 0
  B := 0
  PC := 0
  Ir := 0
  Or := 0
  zero := false
  carry := false
  halted := false
  fault := none
  mem := []
  out := []
  diag := []
  steps := 0
  memSize := Config.refMemSize

end Sys2Proof.Machine
end

