-- ==== Sys2Proof/Machine/Flags.lean ====
section
/-! DEFINITION. The ALU: results and flags of Add and Sub (42_alu.md R140 to R142). -/

namespace Sys2Proof.Machine

/-- The ALU's operation selector: exactly two values (42_alu.md R141). -/
inductive AluOp where
  /-- The left operand plus the right one. -/
  | add
  /-- The left operand minus the right one. -/
  | sub
  deriving DecidableEq, Repr

/-- The ALU's outputs (42_alu.md R140). -/
structure AluResult where
  /-- The 8-bit result. -/
  newB : Byte
  /-- The zero outcome. -/
  zero : Bool
  /-- The carry outcome: overflow or underflow of the unsigned 8-bit range. -/
  carry : Bool
  deriving DecidableEq, Repr

/-- The unreduced result, a mathematical integer (42_alu.md R140). -/
def aluExact (op : AluOp) (a b : Byte) : Int :=
  match op with
  | .add => (a.toNat : Int) + (b.toNat : Int)
  | .sub => (a.toNat : Int) - (b.toNat : Int)

/-- `zero = (result & 0xFF) == 0` (42_alu.md R140; 10_state.md R28). -/
def aluZero (result : Int) : Bool := decide (result % 256 = 0)

/-- `carry = result > 255 || result < 0` (42_alu.md R140; 10_state.md R28). -/
def aluCarry (result : Int) : Bool := decide (255 < result) || decide (result < 0)

/-- The ALU, a pure function (42_alu.md R140). -/
def aluApply (op : AluOp) (a b : Byte) : AluResult where
  newB := BitVec.ofInt 8 (aluExact op a b)
  zero := aluZero (aluExact op a b)
  carry := aluCarry (aluExact op a b)

/-- The 9-bit sum or difference of the hardware reading (42_alu.md R142). -/
def aluNineBits (op : AluOp) (a b : Byte) : BitVec 9 :=
  match op with
  | .add => a.setWidth 9 + b.setWidth 9
  | .sub => a.setWidth 9 - b.setWidth 9

/-- The hardware reading of the ALU, which the spec says is equivalent to `aluApply` (42_alu.md R142): the result is bits 7 to 0
and the carry is bit 8. The machine uses `aluApply`. -/
def aluHardware (op : AluOp) (a b : Byte) : AluResult where
  newB := (aluNineBits op a b).extractLsb' 0 8
  zero := decide ((aluNineBits op a b).extractLsb' 0 8 = 0)
  carry := (aluNineBits op a b).getLsbD 8

end Sys2Proof.Machine
end

