-- ==== Sys2Proof/Machine/Operands.lean ====
section
/-! DEFINITION. The two uses of the operand nibble (30_encoding.md R81): it stands as it is, unscaled, unsigned, absolute. -/

namespace Sys2Proof.Machine

/-- The effective address of a load or store, `ea = Or`: absolute, direct (41_load_store.md R130). -/
def dataAddress (operand : Nibble) : Nat := operand.toNat

/-- The target of a jump, `target = Or`: absolute (43_control_transfer.md R150). -/
def jumpTarget (operand : Nibble) : Byte := operand.setWidth 8

/-- A nibble address as the `addr` of a fault record (60_exceptions.md R175). -/
def faultAddress (operand : Nibble) : Byte := operand.setWidth 8

end Sys2Proof.Machine
end

