-- ==== Sys2Proof/Machine/Ops.lean ====
section
/-! DEFINITION. The named operations every meaning is built from: memory, the registers, the phases of a step that all
instructions share (40_step_cycle.md R110), and raising a condition (60_exceptions.md). There is no return from one: the machine has no
handler and no trap return (60_exceptions.md R181, R182). -/

namespace Sys2Proof.Machine

/-! ### Memory -/

/-- What an address the list does not mention reads as: memory is zero-initialised (70_reset_and_hazards.md R201). -/
def Memory.unlistedByte : Byte := 0

/-- The byte of a cell. -/
def Memory.read : Memory → Nat → Byte
  | [], _ => Memory.unlistedByte
  | (key, byte) :: rest, addr => if key = addr then byte else Memory.read rest addr

/-- Replace the byte of one cell, keeping the canonical form: the list stays sorted, and a cell that comes to hold the unlisted
byte leaves it. -/
def Memory.write : Memory → Nat → Byte → Memory
  | [], addr, byte => if byte = Memory.unlistedByte then [] else [(addr, byte)]
  | (key, old) :: rest, addr, byte =>
    if addr < key then
      if byte = Memory.unlistedByte then (key, old) :: rest else (addr, byte) :: (key, old) :: rest
    else if addr = key then
      if byte = Memory.unlistedByte then rest else (addr, byte) :: rest
    else (key, old) :: Memory.write rest addr byte

/-- The canonical form from an address on: addresses strictly rising from at least `low`, no cell holding the unlisted byte. -/
def Memory.wfFrom : Nat → Memory → Bool
  | _, [] => true
  | low, (key, byte) :: rest =>
    decide (low ≤ key) && decide (byte ≠ Memory.unlistedByte) && Memory.wfFrom (key + 1) rest

/-- The canonical form of a memory. -/
def Memory.wf (m : Memory) : Bool := Memory.wfFrom 0 m

/-- Every listed address lies in `0 .. size - 1` (20_memory.md R51). -/
def Memory.within (size : Nat) : Memory → Bool
  | [] => true
  | (key, _) :: rest => decide (key < size) && Memory.within size rest

/-- The memory whose cells from `addr` on hold the given bytes, in canonical form (70_reset_and_hazards.md R200, `mem[a] <- img[a]`). -/
def Memory.ofBytes : Nat → List Byte → Memory
  | _, [] => []
  | addr, byte :: rest =>
    if byte = Memory.unlistedByte then Memory.ofBytes (addr + 1) rest
    else (addr, byte) :: Memory.ofBytes (addr + 1) rest

/-- `MemRead(addr, 1)`: performed only when the address exists (00_scope.md R11; 20_memory.md R58). -/
def State.memRead (s : State) (addr : Nat) : Option Byte :=
  if addr < s.memSize then some (Memory.read s.mem addr) else none

/-- `mem[addr] <- byte`: the write of STA and STB (10_state.md R34). -/
def State.storeByte (s : State) (addr : Nat) (byte : Byte) : State := { s with mem := Memory.write s.mem addr byte }

/-- `MemWrite(addr, 1, byte)`: performed only when the address exists (00_scope.md R11; 20_memory.md R58). -/
def State.memWrite (s : State) (addr : Nat) (byte : Byte) : Option State :=
  if addr < s.memSize then some (s.storeByte addr byte) else none

/-! ### Registers, flags and streams -/

/-- `A <- byte`: the write of LDA (10_state.md R21). -/
def State.setA (s : State) (byte : Byte) : State := { s with A := byte }

/-- `B <- byte`: the write of LDB (10_state.md R22). -/
def State.setB (s : State) (byte : Byte) : State := { s with B := byte }

/-- `PC <- target`: the write of a taken jump (10_state.md R24). -/
def State.setPC (s : State) (target : Byte) : State := { s with PC := target }

/-- The ALU's outcome goes to B, `zero` and `carry` together, and to nothing else (10_state.md R28; 42_alu.md R140). -/
def State.setAlu (s : State) (r : AluResult) : State := { s with B := r.newB, zero := r.zero, carry := r.carry }

/-- `halted <- true` (10_state.md R29). -/
def State.halt (s : State) : State := { s with halted := true }

/-- `emit(byte)`: append to the output stream (00_scope.md R11; 10_state.md R31). -/
def State.emit (s : State) (byte : Byte) : State := { s with out := s.out ++ [byte] }

/-! ### Conditions -/

/-- `report InvalidOpcodeAtRuntime(addr, byte)`: append to `diag` and go on (60_exceptions.md R174). -/
def State.report (s : State) (addr byte : Byte) : State := { s with diag := s.diag ++ [⟨addr, byte⟩] }

/-- `raise OutOfBoundsAddress(kind, addr)`: the ONE entry into FAULTED. It sets `fault` and changes nothing else: nothing is
saved, PC is not redirected (60_exceptions.md R176, R181). -/
def State.raise (s : State) (kind : FaultKind) (addr : Byte) : State := { s with fault := some ⟨kind, addr⟩ }

/-- RUNNING: `halted` is false and `fault` is none (10_state.md R29). -/
def State.running (s : State) : Bool := !s.halted && s.fault.isNone

/-- The stop of a step asked of a state that is not RUNNING, if it is not (40_step_cycle.md R117). -/
def State.stopped (s : State) : Option Fault :=
  match s.fault with
  | some record => some (.machineFaulted record.kind record.addr)
  | none => if s.halted then some .machineHalted else none

/-! ### The phases all instructions share -/

/-- Phase 1, fetch: the byte at PC (40_step_cycle.md R111); none where PC is outside memory, which no RUNNING state that a run
reaches has. -/
def State.fetch (s : State) : Option Byte := s.memRead s.PC.toNat

/-- The count and phases 2 and 3: `steps` is incremented, `Ir` and `Or` latch the fields of the byte, PC advances (40_step_cycle.md
R110, R112, R113). -/
def State.beginStep (s : State) (i : Instr) : State :=
  { s with steps := s.steps + 1, Ir := i.opcode, Or := i.operand, PC := s.PC + 1 }

/-- Phase 5, range check, with the kind that the arm just executed gives: `jump` after a taken jump, `runoff` otherwise
(40_step_cycle.md R115). HLT is exempt because it has set `halted`. -/
def State.rangeCheck (s : State) (kind : FaultKind) : State :=
  if s.halted = false ∧ s.memSize ≤ s.PC.toNat then s.raise kind s.PC else s

/-- The end of an arm that left PC at the advanced value. -/
def endSequential (s : State) : Host.Outcome State Fault Refusal := .next (s.rangeCheck .runoff)

/-! ### Arms shared by more than one instruction -/

/-- The arm of a load: check the address, read the byte, hand it to the register write (41_load_store.md R130, R131, R133). A bad
address raises and skips phase 5. -/
def loadArm (operand : Nibble) (put : State → Byte → State) (s : State) : Host.Outcome State Fault Refusal :=
  match s.memRead (dataAddress operand) with
  | some byte => endSequential (put s byte)
  | none => .next (s.raise .data (faultAddress operand))

/-- The arm of a store: check the address, write the byte (41_load_store.md R130, R132, R134). A bad address raises and skips
phase 5. -/
def storeArm (operand : Nibble) (byte : Byte) (s : State) : Host.Outcome State Fault Refusal :=
  match s.memWrite (dataAddress operand) byte with
  | some t => endSequential t
  | none => .next (s.raise .data (faultAddress operand))

/-- The arm of ADD and SUB: the ALU on A and B (42_alu.md R140). -/
def aluArm (op : AluOp) (s : State) : Host.Outcome State Fault Refusal :=
  endSequential (s.setAlu (aluApply op s.A s.B))

/-- The arm of a jump: taken, it overwrites the advanced PC and the range check judges the target; untaken, the operand is not
used (43_control_transfer.md R150). -/
def jumpArm (taken : Bool) (operand : Nibble) (s : State) : Host.Outcome State Fault Refusal :=
  if taken then .next ((s.setPC (jumpTarget operand)).rangeCheck .jump) else endSequential s

/-- The arm of an unassigned opcode: report the fetched byte and the address it came from, and go on (44_system.md R166). -/
def unassignedArm (fetchAddr byte : Byte) (s : State) : Host.Outcome State Fault Refusal :=
  endSequential (s.report fetchAddr byte)

end Sys2Proof.Machine
end

