-- ==== Sys2Proof/Machine/Arithmetic.lean ====
section
/-! DEFINITION. ADD and SUB (42_alu.md). Each meaning is the whole step of its instruction. -/

namespace Sys2Proof.Machine

/-- ADD: `B <- (A + B) mod 256` and both flags (42_alu.md R143). -/
def execAdd (operand : Nibble) (s : State) : Host.Outcome State Fault Refusal :=
  aluArm .add (s.beginStep (.add operand))

/-- SUB: `B <- (A - B) mod 256` and both flags; the minuend is A (42_alu.md R144). -/
def execSub (operand : Nibble) (s : State) : Host.Outcome State Fault Refusal :=
  aluArm .sub (s.beginStep (.sub operand))

end Sys2Proof.Machine
end

