-- ==== Sys2Proof/Machine/Control.lean ====
section
/-! DEFINITION. JMP, JNZ, JNC (43_control_transfer.md). Each meaning is the whole step of its instruction. -/

namespace Sys2Proof.Machine

/-- JMP: `PC <- Or` (43_control_transfer.md R151). -/
def execJmp (target : Nibble) (s : State) : Host.Outcome State Fault Refusal :=
  jumpArm true target (s.beginStep (.jmp target))

/-- JNZ: `if zero = false then PC <- Or` (43_control_transfer.md R152). -/
def execJnz (target : Nibble) (s : State) : Host.Outcome State Fault Refusal :=
  jumpArm (!s.zero) target (s.beginStep (.jnz target))

/-- JNC: `if carry = false then PC <- Or` (43_control_transfer.md R153). -/
def execJnc (target : Nibble) (s : State) : Host.Outcome State Fault Refusal :=
  jumpArm (!s.carry) target (s.beginStep (.jnc target))

end Sys2Proof.Machine
end

