-- ==== Sys2Proof/Machine/LoadStore.lean ====
section
/-! DEFINITION. LDA, STA, LDB, STB (41_load_store.md). Each meaning is the whole step of its instruction from the state before the
fetched byte is counted: the count, the latches, the advance, the arm, the range check. -/

namespace Sys2Proof.Machine

/-- LDA: `A <- mem[Or]` (41_load_store.md R131). -/
def execLda (addr : Nibble) (s : State) : Host.Outcome State Fault Refusal :=
  loadArm addr State.setA (s.beginStep (.lda addr))

/-- STA: `mem[Or] <- A` (41_load_store.md R132). -/
def execSta (addr : Nibble) (s : State) : Host.Outcome State Fault Refusal :=
  storeArm addr s.A (s.beginStep (.sta addr))

/-- LDB: `B <- mem[Or]` (41_load_store.md R133). -/
def execLdb (addr : Nibble) (s : State) : Host.Outcome State Fault Refusal :=
  loadArm addr State.setB (s.beginStep (.ldb addr))

/-- STB: `mem[Or] <- B` (41_load_store.md R134). -/
def execStb (addr : Nibble) (s : State) : Host.Outcome State Fault Refusal :=
  storeArm addr s.B (s.beginStep (.stb addr))

end Sys2Proof.Machine
end

