-- ==== Sys2Proof/Machine/System.lean ====
section
/-! DEFINITION. NOP, HLT, OUT and the four unassigned opcodes (44_system.md). Each meaning is the whole step of its instruction. -/

namespace Sys2Proof.Machine

/-- NOP: nothing beyond the count, the latches and the advance (44_system.md R163). -/
def execNop (operand : Nibble) (s : State) : Host.Outcome State Fault Refusal :=
  endSequential (s.beginStep (.nop operand))

/-- HLT: `halted <- true`; the range check that follows is then without effect (44_system.md R164). -/
def execHlt (operand : Nibble) (s : State) : Host.Outcome State Fault Refusal :=
  endSequential (s.beginStep (.hlt operand)).halt

/-- OUT: `emit(A)`, the value of A and not of B (44_system.md R165; 90_conflicts.md C7). -/
def execOut (operand : Nibble) (s : State) : Host.Outcome State Fault Refusal :=
  endSequential ((s.beginStep (.out operand)).emit s.A)

/-- Unassigned opcode 10 (44_system.md R166). -/
def execUnassigned10 (operand : Nibble) (s : State) : Host.Outcome State Fault Refusal :=
  unassignedArm s.PC (encode (.unassigned10 operand)) (s.beginStep (.unassigned10 operand))

/-- Unassigned opcode 11 (44_system.md R166). -/
def execUnassigned11 (operand : Nibble) (s : State) : Host.Outcome State Fault Refusal :=
  unassignedArm s.PC (encode (.unassigned11 operand)) (s.beginStep (.unassigned11 operand))

/-- Unassigned opcode 12 (44_system.md R166). -/
def execUnassigned12 (operand : Nibble) (s : State) : Host.Outcome State Fault Refusal :=
  unassignedArm s.PC (encode (.unassigned12 operand)) (s.beginStep (.unassigned12 operand))

/-- Unassigned opcode 13 (44_system.md R166). -/
def execUnassigned13 (operand : Nibble) (s : State) : Host.Outcome State Fault Refusal :=
  unassignedArm s.PC (encode (.unassigned13 operand)) (s.beginStep (.unassigned13 operand))

end Sys2Proof.Machine
end

