-- ==== Sys2Proof/Machine/Dispatch.lean ====
section
/-! DEFINITION. The dispatch of phase 4: exactly one arm runs, chosen by the opcode alone (40_step_cycle.md R114). -/

namespace Sys2Proof.Machine

def exec (i : Instr) (s : State) : Host.Outcome State Fault Refusal :=
  match i with
  | .nop operand => Sys2Proof.Machine.execNop operand s
  | .lda addr => Sys2Proof.Machine.execLda addr s
  | .sta addr => Sys2Proof.Machine.execSta addr s
  | .ldb addr => Sys2Proof.Machine.execLdb addr s
  | .stb addr => Sys2Proof.Machine.execStb addr s
  | .add operand => Sys2Proof.Machine.execAdd operand s
  | .sub operand => Sys2Proof.Machine.execSub operand s
  | .jmp target => Sys2Proof.Machine.execJmp target s
  | .jnz target => Sys2Proof.Machine.execJnz target s
  | .jnc target => Sys2Proof.Machine.execJnc target s
  | .unassigned10 operand => Sys2Proof.Machine.execUnassigned10 operand s
  | .unassigned11 operand => Sys2Proof.Machine.execUnassigned11 operand s
  | .unassigned12 operand => Sys2Proof.Machine.execUnassigned12 operand s
  | .unassigned13 operand => Sys2Proof.Machine.execUnassigned13 operand s
  | .hlt operand => Sys2Proof.Machine.execHlt operand s
  | .out operand => Sys2Proof.Machine.execOut operand s

end Sys2Proof.Machine
end

