-- ==== Sys2Proof/Machine/Step.lean ====
section
/-! DEFINITION. One step (40_step_cycle.md R110): a state that is not RUNNING has none (R117); otherwise the byte at PC is fetched,
decoded and executed. -/

namespace Sys2Proof.Machine

/-- One fetch-decode-execute cycle. -/
def step (s : State) : Host.Outcome State Fault Refusal :=
  match s.stopped with
  | some stop => .fault stop
  | none =>
    match s.fetch with
    | some byte => exec (decode byte) s
    | none => .fault (.fetchOutOfRange s.PC)

/-- The state with the byte of the table word `w` in the cell the next step fetches from. It stands for the host's loading of an
image before the run (70_reset_and_hazards.md R200). -/
def State.withFetchWord (s : State) (nbits w : Nat) : State :=
  match s.memWrite s.PC.toNat (tableByte nbits w) with
  | some t => t
  | none => s

end Sys2Proof.Machine
end

