-- ==== Sys2Proof/Machine/Assembler.lean ====
section
/-! DEFINITION. The assembler, software outside the core, as 30_encoding.md section 5 specifies it (R95 to R103): a pure function from
source lines to the image that reset loads. A source line is a list of characters. -/

namespace Sys2Proof.Machine

/-- One line of assembler source (30_encoding.md R97). -/
abbrev SourceLine := List Char

/-- The one error of the assembler (30_encoding.md R103). -/
inductive AsmError where
  /-- A line cannot be parsed into a mnemonic and an operand in 0 to 15 (30_encoding.md R101, R103). -/
  | fileFormatError
  deriving DecidableEq, Repr

/-- The opcode of a mnemonic token: exact lower-case match, and opcode 0 for any other token (30_encoding.md R84, R96, R100). -/
def mnemonicOpcode : List Char → Nibble
  | ['n', 'o', 'p'] => 0
  | ['l', 'd', 'a'] => 1
  | ['s', 't', 'a'] => 2
  | ['l', 'd', 'b'] => 3
  | ['s', 't', 'b'] => 4
  | ['a', 'd', 'd'] => 5
  | ['s', 'u', 'b'] => 6
  | ['j', 'm', 'p'] => 7
  | ['j', 'n', 'z'] => 8
  | ['j', 'n', 'c'] => 9
  | ['h', 'l', 't'] => 14
  | ['o', 'u', 't'] => 15
  | _ => 0

/-- The twelve tokens that name an opcode (30_encoding.md R96). -/
def namedTokens : List (List Char) :=
  [['n', 'o', 'p'], ['l', 'd', 'a'], ['s', 't', 'a'], ['l', 'd', 'b'], ['s', 't', 'b'], ['a', 'd', 'd'],
   ['s', 'u', 'b'], ['j', 'm', 'p'], ['j', 'n', 'z'], ['j', 'n', 'c'], ['h', 'l', 't'], ['o', 'u', 't']]

/-- The characters that separate tokens: the ASCII white space (30_encoding.md R97). DESIGN CHOICE, log entry 13. -/
def isSeparator (c : Char) : Bool := c.toNat = 32 || (decide (9 ≤ c.toNat) && decide (c.toNat ≤ 13))

/-- The tokens of a line, with the characters of the token being read in front. -/
def tokensFrom : List Char → SourceLine → List (List Char)
  | [], [] => []
  | current, [] => [current]
  | current, c :: rest =>
    if isSeparator c then
      match current with
      | [] => tokensFrom [] rest
      | first :: more => (first :: more) :: tokensFrom [] rest
    else tokensFrom (current ++ [c]) rest

/-- The white-space separated tokens of a line (30_encoding.md R97). -/
def tokens (line : SourceLine) : List (List Char) := tokensFrom [] line

/-- The value of a decimal digit. -/
def digitValue (c : Char) : Option Nat :=
  if 48 ≤ c.toNat ∧ c.toNat ≤ 57 then some (c.toNat - 48) else none

/-- The value of a run of decimal digits read after the value `acc`. -/
def decimalFrom : Nat → List Char → Option Nat
  | acc, [] => some acc
  | acc, c :: rest =>
    match digitValue c with
    | some d => decimalFrom (10 * acc + d) rest
    | none => none

/-- A decimal natural number: one digit or more, no sign (30_encoding.md R97; 91_not_in_source.md N19). Leading zeros are allowed:
DESIGN CHOICE, log entry 13. -/
def decimal : List Char → Option Nat
  | [] => none
  | c :: rest => decimalFrom 0 (c :: rest)

/-- The operand of a line: a decimal number 0 to 15, anything else is rejected (30_encoding.md R101; 92_eei_decisions.md D8). -/
def parseOperand (token : List Char) : Except AsmError Nibble :=
  match decimal token with
  | some n => if n ≤ 15 then .ok (BitVec.ofNat 4 n) else .error .fileFormatError
  | none => .error .fileFormatError

/-- The byte of a line: exactly two tokens, a mnemonic and an operand (30_encoding.md R97, R98). -/
def assembleLine (line : SourceLine) : Except AsmError Byte :=
  match tokens line with
  | [mnemonic, operand] =>
    match parseOperand operand with
    | .ok p => .ok (packByte (mnemonicOpcode mnemonic) p)
    | .error e => .error e
  | _ => .error .fileFormatError

/-- `assemble(lines, memSize)`: one byte a line in order, until the input is exhausted (the rest of the buffer stays zero) or
`memSize` addresses are filled (further lines are discarded unread) (30_encoding.md R95, R98, R99). The first malformed line aborts the
call (R103). -/
def assemble : List SourceLine → Nat → Except AsmError (List Byte)
  | _, 0 => .ok []
  | [], memSize + 1 => .ok (List.replicate (memSize + 1) 0)
  | line :: rest, memSize + 1 =>
    match assembleLine line with
    | .error e => .error e
    | .ok byte =>
      match assemble rest memSize with
      | .error e => .error e
      | .ok bytes => .ok (byte :: bytes)

end Sys2Proof.Machine
end

