-- ==== Sys2Proof/Machine/Reset.lean ====
section
/-! DEFINITION. Reset with an image supplied by the host (70_reset_and_hazards.md R200, R201). -/

namespace Sys2Proof.Machine

/-- The state right after reset with memory of `memSize` cells holding the image (70_reset_and_hazards.md R200). -/
def initialState (memSize : Nat) (image : List Byte) : State where
  A := 0
  B := 0
  PC := 0
  Ir := 0
  Or := 0
  zero := false
  carry := false
  halted := false
  fault := none
  mem := Memory.ofBytes 0 image
  out := []
  diag := []
  steps := 0
  memSize := memSize

/-- Reset takes an image of exactly `MEM_SIZE` bytes, for a legal `MEM_SIZE`; anything else is refused by the host before the machine
exists (70_reset_and_hazards.md R201; 92_eei_decisions.md D1, D15). -/
def resetWith (memSize : Nat) (image : List Byte) : Option State :=
  if Config.legalMemSize memSize = true ∧ image.length = memSize then some (initialState memSize image) else none

end Sys2Proof.Machine
end

