-- ==== Sys2Proof/Machine/Run.lean ====
section
/-! DEFINITION. The run controller, host side: it permits at most `MAX_STEPS` steps and reports the final state (40_step_cycle.md
R120 to R125). The core is not told of the bound (60_exceptions.md R173). -/

namespace Sys2Proof.Machine

/-- The loop of the run controller: step while RUNNING and `steps < MAX_STEPS` (40_step_cycle.md R120). The first argument bounds
the recursion; every step adds 1 to `steps`, so `maxSteps` of it is never too little. -/
def runLoop : Nat → Nat → State → State
  | 0, _, s => s
  | fuel + 1, maxSteps, s =>
    if s.running = true ∧ s.steps < maxSteps then
      match step s with
      | .next t => runLoop fuel maxSteps t
      | .fault _ => s
      | .refused _ => s
    else s

/-- `run(image, MAX_STEPS)`: reset, then the loop (40_step_cycle.md R120); none for an image that reset refuses. -/
def run (memSize maxSteps : Nat) (image : List Byte) : Option State :=
  (resetWith memSize image).map (runLoop maxSteps maxSteps)

/-- Why a run ended (40_step_cycle.md R121; 92_eei_decisions.md D20). -/
inductive Cause where
  /-- HLT was executed: the normal end (60_exceptions.md R172). -/
  | halted
  /-- An out-of-bounds address was met: the run fails (60_exceptions.md R176). -/
  | faulted (record : OutOfBoundsAddress)
  /-- The bound was reached with the machine still RUNNING: not an error (60_exceptions.md R173). -/
  | stepLimitReached
  deriving DecidableEq, Repr

/-- The cause of a run's end, read off its final state; halting or faulting in the last permitted step wins over the limit
(40_step_cycle.md R121; 92_eei_decisions.md D7). -/
def endCause (s : State) : Cause :=
  match s.fault with
  | some record => .faulted record
  | none => if s.halted then .halted else .stepLimitReached

/-- What a run returns (40_step_cycle.md R122): `{finalRegisters, finalFlags, finalMemory, stepsExecuted, outputStream}`. -/
structure RunResult where
  /-- Final A. -/
  A : Byte
  /-- Final B. -/
  B : Byte
  /-- Final PC. -/
  PC : Byte
  /-- Final Ir. -/
  Ir : Nibble
  /-- Final Or. -/
  Or : Nibble
  /-- Final zero flag. -/
  zero : Bool
  /-- Final carry flag. -/
  carry : Bool
  /-- Final halted flag. -/
  halted : Bool
  /-- The bytes of cells 0 to `MEM_SIZE - 1`. -/
  finalMemory : List Byte
  /-- The number of steps. -/
  stepsExecuted : Nat
  /-- The values OUT emitted. -/
  outputStream : List Byte
  deriving DecidableEq, Repr

/-- The result read off a final state, or the failure of a FAULTED one (40_step_cycle.md R122, `OutOfBoundsError`). -/
def runResult (s : State) : Except OutOfBoundsAddress RunResult :=
  match s.fault with
  | some record => .error record
  | none => .ok
      { A := s.A, B := s.B, PC := s.PC, Ir := s.Ir, Or := s.Or, zero := s.zero, carry := s.carry, halted := s.halted,
        finalMemory := (List.range s.memSize).map (Memory.read s.mem), stepsExecuted := s.steps, outputStream := s.out }

end Sys2Proof.Machine
end

