-- ==== Sys2Proof/Safety.lean ====
section
/-! DEFINITION. What claims call a good state and a safe run (10_state.md R37; 40_step_cycle.md R117; 60_exceptions.md R176). -/

namespace Sys2Proof.Safety

open Sys2Proof.Machine

/-- The state a step can be taken from: RUNNING, with PC inside memory (10_state.md R29, R37 (a)). -/
structure Ready (s : State) : Prop where
  /-- `halted` is false. -/
  notHalted : s.halted = false
  /-- `fault` is none. -/
  noFault : s.fault = none
  /-- PC is an address of memory. -/
  pcInside : s.PC.toNat < s.memSize

/-- A state that is RUNNING with its PC before the last address: a sequential advance stays inside memory. -/
structure ReadyBeforeLast (s : State) : Prop where
  /-- `halted` is false. -/
  notHalted : s.halted = false
  /-- `fault` is none. -/
  noFault : s.fault = none
  /-- The next address is an address of memory too. -/
  nextInside : s.PC.toNat + 1 < s.memSize

/-- A state that is RUNNING with its PC at the last address, of a legal memory. -/
structure ReadyAtLast (s : State) : Prop where
  /-- `halted` is false. -/
  notHalted : s.halted = false
  /-- `fault` is none. -/
  noFault : s.fault = none
  /-- PC is the last address. -/
  atLast : s.PC.toNat + 1 = s.memSize
  /-- The memory's size is legal. -/
  legalSize : Config.legalMemSize s.memSize = true

/-- What PC is in a FAULTED state, and what the record says (10_state.md R37 (c); 60_exceptions.md R175). -/
def faultPlace (s : State) (record : OutOfBoundsAddress) : Prop :=
  match record.kind with
  | .runoff => s.PC.toNat = s.memSize ∧ record.addr = s.PC
  | .jump => s.PC = s.Or.setWidth 8 ∧ record.addr = s.PC ∧ s.memSize ≤ s.PC.toNat
  | .data => record.addr = s.Or.setWidth 8 ∧ s.memSize ≤ s.Or.toNat ∧ 0 < s.PC.toNat ∧ s.PC.toNat ≤ s.memSize

/-- The invariant of every state reached from reset (10_state.md R37), with the canonical form of the memory. Clause (e) is of a
run and not of a state, and is stated of `run`. -/
structure Invariant (s : State) : Prop where
  /-- `MEM_SIZE` is legal (00_scope.md R7). -/
  sizeLegal : Config.legalMemSize s.memSize = true
  /-- The memory is in canonical form. -/
  memCanonical : Memory.wf s.mem = true
  /-- The memory lists only addresses that exist (20_memory.md R51). -/
  memInside : Memory.within s.memSize s.mem = true
  /-- (a) PC is inside memory while the machine is RUNNING. -/
  runningPC : s.halted = false → s.fault = none → s.PC.toNat < s.memSize
  /-- (b) PC is at most `MEM_SIZE` in a HALTED state. -/
  haltedPC : s.halted = true → s.PC.toNat ≤ s.memSize
  /-- (c) Where PC is in a FAULTED state. -/
  faultedPC : ∀ record, s.fault = some record → faultPlace s record
  /-- (d) `halted` and `fault` are never both set. -/
  oneEnd : s.halted = true → s.fault = none
  /-- (f) At most one output or report a step. -/
  streamLengths : s.out.length + s.diag.length ≤ s.steps
  /-- A HALTED state was reached by HLT: `Ir` is 14 (10_state.md R25, R29). -/
  haltedIr : s.halted = true → s.Ir = 14

/-- A safe run: it did not end in a fault (60_exceptions.md R176: every claim takes `fault = none` as a premise or proves it). -/
def safeEnd (s : State) : Prop := s.fault = none

/-- The instruction's operand, if it uses one, is an address of memory (20_memory.md R58; 43_control_transfer.md R150). -/
def operandInside (memSize : Nat) (i : Instr) : Bool := !i.usesOperand || decide (i.operand.toNat < memSize)

end Sys2Proof.Safety
end

