-- ==== Sys2Proof/Certificates/Slice0/Obligations.lean ====
section
/-! DEFINITION. The statements for the provers. A statement that rests on a decision the spec marks as its own, or on a choice of the
model, is of basis derived and its docstring names the decision (D<n> of 92_eei_decisions.md) or the log entry. -/

open Sys2Proof Sys2Proof.Machine Sys2Proof.Safety

/-- Decode and encode are inverse bijections (30_encoding.md section 4, derived there from R82 and R83), for every
instruction, well-formed or not, and every operand. -/
def Obligations.DecodeEncodeRoundTrip : Prop :=
  (∀ i : Instr, decode (encode i) = i) ∧ (∀ (byte : Byte) (i : Instr), decode byte = i ↔ encode i = byte)

/-- The byte of an instruction (30_encoding.md R83). -/
def Obligations.EncodePacksOpcodeAndOperand : Prop :=
  (∀ opcode operand : Nibble, (packByte opcode operand).toNat = 16 * opcode.toNat + operand.toNat ∧
      (packByte opcode operand).toNat = (opcode.toNat <<< 4) ||| operand.toNat ∧
      opcodeField (packByte opcode operand) = opcode ∧ operandField (packByte opcode operand) = operand) ∧
    (∀ i : Instr, encode i = packByte i.opcode i.operand) ∧
    namedTokens.map mnemonicOpcode = [0, 1, 2, 3, 4, 5, 6, 7, 8, 9, 14, 15]

/-- Decode is total and the decode phase latches its pair (30_encoding.md R82; 40_step_cycle.md R112). -/
def Obligations.DecodeSplitsAndLatches : Prop :=
  (∀ byte : Byte, (decode byte).opcode.toNat = byte.toNat / 16 ∧ (decode byte).operand.toNat = byte.toNat % 16) ∧
    (∀ s : State, Ready s → ∃ t, step s = .next t ∧
      t.Ir.toNat = (Memory.read s.mem s.PC.toNat).toNat / 16 ∧
      t.Or.toNat = (Memory.read s.mem s.PC.toNat).toNat % 16)

/-- The opcode map (30_encoding.md section 3), one row per opcode value. -/
def Obligations.OpcodeMapRows : Prop :=
  ∀ p : Nibble,
    decode (0x00#8 ||| p.setWidth 8) = .nop p ∧ decode (0x10#8 ||| p.setWidth 8) = .lda p ∧
    decode (0x20#8 ||| p.setWidth 8) = .sta p ∧ decode (0x30#8 ||| p.setWidth 8) = .ldb p ∧
    decode (0x40#8 ||| p.setWidth 8) = .stb p ∧ decode (0x50#8 ||| p.setWidth 8) = .add p ∧
    decode (0x60#8 ||| p.setWidth 8) = .sub p ∧ decode (0x70#8 ||| p.setWidth 8) = .jmp p ∧
    decode (0x80#8 ||| p.setWidth 8) = .jnz p ∧ decode (0x90#8 ||| p.setWidth 8) = .jnc p ∧
    decode (0xA0#8 ||| p.setWidth 8) = .unassigned10 p ∧ decode (0xB0#8 ||| p.setWidth 8) = .unassigned11 p ∧
    decode (0xC0#8 ||| p.setWidth 8) = .unassigned12 p ∧ decode (0xD0#8 ||| p.setWidth 8) = .unassigned13 p ∧
    decode (0xE0#8 ||| p.setWidth 8) = .hlt p ∧ decode (0xF0#8 ||| p.setWidth 8) = .out p

/-- Bytes the spec writes out, with what they stand for (95_test_vectors.md V8, V12, V13, V14). -/
def Obligations.WordsFromTheSpecDecode : Prop :=
  decode 0x15 = .lda 5 ∧ decode 0x36 = .ldb 6 ∧ decode 0x50 = .add 0 ∧ decode 0xF0 = .out 0 ∧ decode 0xE0 = .hlt 0 ∧
    decode 0x23 = .sta 3 ∧ decode 0x4E = .stb 14 ∧ decode 0x73 = .jmp 3 ∧ decode 0x92 = .jnc 2 ∧
    decode 0xBC = .unassigned11 12 ∧ decode 0x6C = .sub 12

/-- One step of a RUNNING machine executes the instruction decoded from the byte at PC (40_step_cycle.md section 1). In this
model exec is the whole step of its instruction, so step adds nothing around it (log entry 11). -/
def Obligations.StepRunsTheDecodedInstruction : Prop :=
  ∀ (s : State) (i : Instr), Ready s → decode (Memory.read s.mem s.PC.toNat) = i → step s = exec i s

/-- A step is total on RUNNING states and exists nowhere else (40_step_cycle.md section 1, the spec's own reading D4, D19). The stop
for a PC outside memory is the model's choice (log entry 6). -/
def Obligations.StepExistsExactlyWhenReady : Prop :=
  ∀ s : State, (∃ t, step s = .next t) ↔ Ready s

/-- No step outside RUNNING (40_step_cycle.md section 1; 92_eei_decisions.md D4). The names of the stops are the model's (log entries
4 and 5). -/
def Obligations.StoppedMachineSaysWhy : Prop :=
  (∀ (s : State) (record : OutOfBoundsAddress), s.fault = some record →
      step s = .fault (.machineFaulted record.kind record.addr)) ∧
    (∀ s : State, s.halted = true → s.fault = none → step s = .fault .machineHalted)

/-- Every step that begins is counted, one that faults too (92_eei_decisions.md D7), and no step changes the parameter MEM_SIZE
(00_scope.md section 3; the field is the model's own, log entry 1). -/
def Obligations.EveryStepCountsAndKeepsSize : Prop :=
  ∀ s t : State, step s = .next t → t.steps = s.steps + 1 ∧ t.memSize = s.memSize

/-- How PC moves (10_state.md section 3), without wrapping (92_eei_decisions.md D2). -/
def Obligations.WhereThePCGoes : Prop :=
  ∀ s t : State, step s = .next t →
    t.PC = (if t.Ir = 7 ∨ (t.Ir = 8 ∧ s.zero = false) ∨ (t.Ir = 9 ∧ s.carry = false)
      then t.Or.setWidth 8 else s.PC + 1) ∧
    (s.memSize ≤ 255 → (s.PC + 1).toNat = s.PC.toNat + 1)

/-- LDA and LDB where no fault arises (41_load_store.md section of LDA and LDB): the loaded register, the latches, PC and the count are
the only fields that change. -/
def Obligations.LoadsWriteTheRegister : Prop :=
  ∀ (addr : Nibble) (s : State), ReadyBeforeLast s → addr.toNat < s.memSize →
    exec (.lda addr) s = .next { s with
      A := Memory.read s.mem addr.toNat, Ir := 1, Or := addr, PC := s.PC + 1, steps := s.steps + 1 } ∧
    exec (.ldb addr) s = .next { s with
      B := Memory.read s.mem addr.toNat, Ir := 3, Or := addr, PC := s.PC + 1, steps := s.steps + 1 }

/-- STA and STB where no fault arises (41_load_store.md section of STA and STB). The cell's content is stated by
StoredByteReadsBack. -/
def Obligations.StoresWriteTheCell : Prop :=
  ∀ (addr : Nibble) (s : State), ReadyBeforeLast s → addr.toNat < s.memSize →
    exec (.sta addr) s = .next { s with
      mem := Memory.write s.mem (dataAddress addr) s.A, Ir := 2, Or := addr, PC := s.PC + 1, steps := s.steps + 1 } ∧
    exec (.stb addr) s = .next { s with
      mem := Memory.write s.mem (dataAddress addr) s.B, Ir := 4, Or := addr, PC := s.PC + 1, steps := s.steps + 1 }

/-- A store changes exactly its cell (41_load_store.md, STA and STB; 20_memory.md section 5), at every address of memory, the last
instruction address included. -/
def Obligations.StoredByteReadsBack : Prop :=
  ∀ (addr : Nibble) (s : State), Ready s → addr.toNat < s.memSize → Memory.wf s.mem = true →
    (∃ t, exec (.sta addr) s = .next t ∧ Memory.read t.mem (dataAddress addr) = s.A ∧
      ∀ a, a ≠ dataAddress addr → Memory.read t.mem a = Memory.read s.mem a) ∧
    (∃ t, exec (.stb addr) s = .next t ∧ Memory.read t.mem (dataAddress addr) = s.B ∧
      ∀ a, a ≠ dataAddress addr → Memory.read t.mem a = Memory.read s.mem a)

/-- ADD and SUB where no fault arises (42_alu.md section 2), in plain arithmetic. -/
def Obligations.AddAndSubWriteB : Prop :=
  ∀ (p : Nibble) (s : State), ReadyBeforeLast s →
    exec (.add p) s = .next { s with
      B := BitVec.ofNat 8 (s.A.toNat + s.B.toNat), zero := decide ((s.A.toNat + s.B.toNat) % 256 = 0),
      carry := decide (255 < s.A.toNat + s.B.toNat), Ir := 5, Or := p, PC := s.PC + 1, steps := s.steps + 1 } ∧
    exec (.sub p) s = .next { s with
      B := BitVec.ofNat 8 (s.A.toNat + 256 - s.B.toNat), zero := decide (s.A = s.B),
      carry := decide (s.A.toNat < s.B.toNat), Ir := 6, Or := p, PC := s.PC + 1, steps := s.steps + 1 }

/-- Taken jumps inside memory (43_control_transfer.md), from any address, the last one included. -/
def Obligations.TakenJumpsSetPC : Prop :=
  ∀ (target : Nibble) (s : State), Ready s → target.toNat < s.memSize →
    exec (.jmp target) s = .next { s with
      PC := target.setWidth 8, Ir := 7, Or := target, steps := s.steps + 1 } ∧
    (s.zero = false → exec (.jnz target) s = .next { s with
      PC := target.setWidth 8, Ir := 8, Or := target, steps := s.steps + 1 }) ∧
    (s.carry = false → exec (.jnc target) s = .next { s with
      PC := target.setWidth 8, Ir := 9, Or := target, steps := s.steps + 1 })

/-- Untaken conditional jumps (43_control_transfer.md; an out-of-range target then raises nothing, 92_eei_decisions.md D16). -/
def Obligations.UntakenJumpsFallThrough : Prop :=
  ∀ (target : Nibble) (s : State), ReadyBeforeLast s →
    (s.zero = true → exec (.jnz target) s = .next { s with
      PC := s.PC + 1, Ir := 8, Or := target, steps := s.steps + 1 }) ∧
    (s.carry = true → exec (.jnc target) s = .next { s with
      PC := s.PC + 1, Ir := 9, Or := target, steps := s.steps + 1 })

/-- NOP where no fault arises (44_system.md, NOP). -/
def Obligations.NopOnlyAdvances : Prop :=
  ∀ (p : Nibble) (s : State), ReadyBeforeLast s →
    exec (.nop p) s = .next { s with Ir := 0, Or := p, PC := s.PC + 1, steps := s.steps + 1 }

/-- HLT, at every address, the last one included (44_system.md R164). -/
def Obligations.HltHaltsForEver : Prop :=
  ∀ (p : Nibble) (s : State), Ready s →
    ∃ t, t = { s with halted := true, Ir := 14, Or := p, PC := s.PC + 1, steps := s.steps + 1 } ∧
      exec (.hlt p) s = .next t ∧ encode (.hlt 0) = 0xE0 ∧ opcodeField (encode (.hlt p)) = 14 ∧
      ∀ u, step t ≠ .next u

/-- OUT where no fault arises (44_system.md, OUT; 90_conflicts.md C7: the value is A's). -/
def Obligations.OutEmitsA : Prop :=
  ∀ (p : Nibble) (s : State), ReadyBeforeLast s →
    exec (.out p) s = .next { s with
      out := s.out ++ [s.A], Ir := 15, Or := p, PC := s.PC + 1, steps := s.steps + 1 }

/-- The four unassigned opcodes where no fault arises (44_system.md; the record's content is 92_eei_decisions.md D11). -/
def Obligations.UnassignedOpcodesReportAndContinue : Prop :=
  ∀ (p : Nibble) (s : State), ReadyBeforeLast s →
    exec (.unassigned10 p) s = .next { s with
      diag := s.diag ++ [⟨s.PC, 0xA0#8 ||| p.setWidth 8⟩], Ir := 10, Or := p, PC := s.PC + 1, steps := s.steps + 1 } ∧
    exec (.unassigned11 p) s = .next { s with
      diag := s.diag ++ [⟨s.PC, 0xB0#8 ||| p.setWidth 8⟩], Ir := 11, Or := p, PC := s.PC + 1, steps := s.steps + 1 } ∧
    exec (.unassigned12 p) s = .next { s with
      diag := s.diag ++ [⟨s.PC, 0xC0#8 ||| p.setWidth 8⟩], Ir := 12, Or := p, PC := s.PC + 1, steps := s.steps + 1 } ∧
    exec (.unassigned13 p) s = .next { s with
      diag := s.diag ++ [⟨s.PC, 0xD0#8 ||| p.setWidth 8⟩], Ir := 13, Or := p, PC := s.PC + 1, steps := s.steps + 1 }

/-- Run-off (40_step_cycle.md section 1, phase 5; 92_eei_decisions.md D3): every effect of the arm is done. -/
def Obligations.RunOffAfterLoadsAndStores : Prop :=
  ∀ (addr : Nibble) (s : State), ReadyAtLast s → addr.toNat < s.memSize →
    exec (.lda addr) s = .next { s with
      A := Memory.read s.mem addr.toNat, Ir := 1, Or := addr, PC := s.PC + 1, steps := s.steps + 1,
      fault := some ⟨.runoff, BitVec.ofNat 8 s.memSize⟩ } ∧
    exec (.sta addr) s = .next { s with
      mem := Memory.write s.mem (dataAddress addr) s.A, Ir := 2, Or := addr, PC := s.PC + 1,
      steps := s.steps + 1, fault := some ⟨.runoff, BitVec.ofNat 8 s.memSize⟩ } ∧
    exec (.ldb addr) s = .next { s with
      B := Memory.read s.mem addr.toNat, Ir := 3, Or := addr, PC := s.PC + 1, steps := s.steps + 1,
      fault := some ⟨.runoff, BitVec.ofNat 8 s.memSize⟩ } ∧
    exec (.stb addr) s = .next { s with
      mem := Memory.write s.mem (dataAddress addr) s.B, Ir := 4, Or := addr, PC := s.PC + 1,
      steps := s.steps + 1, fault := some ⟨.runoff, BitVec.ofNat 8 s.memSize⟩ }

/-- Run-off after ADD and SUB (40_step_cycle.md section 1, phase 5; 92_eei_decisions.md D3). -/
def Obligations.RunOffAfterArithmetic : Prop :=
  ∀ (p : Nibble) (s : State), ReadyAtLast s →
    exec (.add p) s = .next { s with
      B := s.A + s.B, zero := decide (s.A + s.B = 0), carry := decide (255 < s.A.toNat + s.B.toNat),
      Ir := 5, Or := p, PC := s.PC + 1, steps := s.steps + 1,
      fault := some ⟨.runoff, BitVec.ofNat 8 s.memSize⟩ } ∧
    exec (.sub p) s = .next { s with
      B := s.A - s.B, zero := decide (s.A = s.B), carry := decide (s.A.toNat < s.B.toNat),
      Ir := 6, Or := p, PC := s.PC + 1, steps := s.steps + 1,
      fault := some ⟨.runoff, BitVec.ofNat 8 s.memSize⟩ }

/-- Run-off after NOP, OUT, the unassigned opcodes and untaken jumps (40_step_cycle.md section 1, phase 5; 60_exceptions.md section 3:
the report is made first; 92_eei_decisions.md D3, D6). -/
def Obligations.RunOffAfterTheOthers : Prop :=
  ∀ (p : Nibble) (s : State), ReadyAtLast s →
    exec (.nop p) s = .next { s with
      Ir := 0, Or := p, PC := s.PC + 1, steps := s.steps + 1,
      fault := some ⟨.runoff, BitVec.ofNat 8 s.memSize⟩ } ∧
    exec (.out p) s = .next { s with
      out := s.out ++ [s.A], Ir := 15, Or := p, PC := s.PC + 1, steps := s.steps + 1,
      fault := some ⟨.runoff, BitVec.ofNat 8 s.memSize⟩ } ∧
    exec (.unassigned10 p) s = .next { s with
      diag := s.diag ++ [⟨s.PC, packByte 10 p⟩], Ir := 10, Or := p, PC := s.PC + 1, steps := s.steps + 1,
      fault := some ⟨.runoff, BitVec.ofNat 8 s.memSize⟩ } ∧
    exec (.unassigned11 p) s = .next { s with
      diag := s.diag ++ [⟨s.PC, packByte 11 p⟩], Ir := 11, Or := p, PC := s.PC + 1, steps := s.steps + 1,
      fault := some ⟨.runoff, BitVec.ofNat 8 s.memSize⟩ } ∧
    exec (.unassigned12 p) s = .next { s with
      diag := s.diag ++ [⟨s.PC, packByte 12 p⟩], Ir := 12, Or := p, PC := s.PC + 1, steps := s.steps + 1,
      fault := some ⟨.runoff, BitVec.ofNat 8 s.memSize⟩ } ∧
    exec (.unassigned13 p) s = .next { s with
      diag := s.diag ++ [⟨s.PC, packByte 13 p⟩], Ir := 13, Or := p, PC := s.PC + 1, steps := s.steps + 1,
      fault := some ⟨.runoff, BitVec.ofNat 8 s.memSize⟩ } ∧
    (s.zero = true → exec (.jnz p) s = .next { s with
      Ir := 8, Or := p, PC := s.PC + 1, steps := s.steps + 1,
      fault := some ⟨.runoff, BitVec.ofNat 8 s.memSize⟩ }) ∧
    (s.carry = true → exec (.jnc p) s = .next { s with
      Ir := 9, Or := p, PC := s.PC + 1, steps := s.steps + 1,
      fault := some ⟨.runoff, BitVec.ofNat 8 s.memSize⟩ })

/-- A data address that does not exist (20_memory.md section 3; 92_eei_decisions.md D5): the access is not made, and the range check does
not run even at the last address (92_eei_decisions.md D6). -/
def Obligations.DataAddressOutsideMemoryFaults : Prop :=
  ∀ (addr : Nibble) (s : State), Ready s → s.memSize ≤ addr.toNat →
    exec (.lda addr) s = .next { s with
      Ir := 1, Or := addr, PC := s.PC + 1, steps := s.steps + 1, fault := some ⟨.data, addr.setWidth 8⟩ } ∧
    exec (.sta addr) s = .next { s with
      Ir := 2, Or := addr, PC := s.PC + 1, steps := s.steps + 1, fault := some ⟨.data, addr.setWidth 8⟩ } ∧
    exec (.ldb addr) s = .next { s with
      Ir := 3, Or := addr, PC := s.PC + 1, steps := s.steps + 1, fault := some ⟨.data, addr.setWidth 8⟩ } ∧
    exec (.stb addr) s = .next { s with
      Ir := 4, Or := addr, PC := s.PC + 1, steps := s.steps + 1, fault := some ⟨.data, addr.setWidth 8⟩ }

/-- A taken jump whose target does not exist (40_step_cycle.md section 1, phase 5; 92_eei_decisions.md D3). -/
def Obligations.TakenJumpOutsideMemoryFaults : Prop :=
  ∀ (target : Nibble) (s : State), Ready s → s.memSize ≤ target.toNat →
    exec (.jmp target) s = .next { s with
      PC := target.setWidth 8, Ir := 7, Or := target, steps := s.steps + 1,
      fault := some ⟨.jump, target.setWidth 8⟩ } ∧
    (s.zero = false → exec (.jnz target) s = .next { s with
      PC := target.setWidth 8, Ir := 8, Or := target, steps := s.steps + 1,
      fault := some ⟨.jump, target.setWidth 8⟩ }) ∧
    (s.carry = false → exec (.jnc target) s = .next { s with
      PC := target.setWidth 8, Ir := 9, Or := target, steps := s.steps + 1,
      fault := some ⟨.jump, target.setWidth 8⟩ })

/-- Which step faults, and with which record: the table of 60_exceptions.md section 1 in the priority of its section 3
(92_eei_decisions.md D3 to D6). -/
def Obligations.FaultTableAndPriority : Prop :=
  ∀ s t : State, Config.legalMemSize s.memSize = true → step s = .next t →
    t.fault =
      if (t.Ir = 1 ∨ t.Ir = 2 ∨ t.Ir = 3 ∨ t.Ir = 4) ∧ s.memSize ≤ t.Or.toNat then some ⟨.data, t.Or.setWidth 8⟩
      else if t.Ir = 14 then none
      else if t.Ir = 7 ∨ (t.Ir = 8 ∧ s.zero = false) ∨ (t.Ir = 9 ∧ s.carry = false) then
        if s.memSize ≤ t.Or.toNat then some ⟨.jump, t.Or.setWidth 8⟩ else none
      else if s.PC.toNat + 1 = s.memSize then some ⟨.runoff, BitVec.ofNat 8 s.memSize⟩
      else none

/-- With sixteen cells or more only the run-off can occur (10_state.md section 6; 92_eei_decisions.md D4). -/
def Obligations.SixteenCellsOnlyRunOff : Prop :=
  ∀ (s t : State) (record : OutOfBoundsAddress), 16 ≤ s.memSize → step s = .next t → t.fault = some record →
    record.kind = .runoff ∧ record.addr.toNat = s.memSize ∧ t.PC.toNat = s.memSize ∧ s.PC.toNat + 1 = s.memSize

/-- A is written by LDA only (10_state.md section 2). -/
def Obligations.OnlyLdaWritesA : Prop :=
  ∀ s t : State, step s = .next t →
    t.A = if t.Ir = 1 ∧ t.Or.toNat < s.memSize then Memory.read s.mem t.Or.toNat else s.A

/-- B is written by LDB, ADD and SUB only (10_state.md section 2). -/
def Obligations.OnlyLdbAndTheAluWriteB : Prop :=
  ∀ s t : State, step s = .next t →
    t.B = if t.Ir = 3 ∧ t.Or.toNat < s.memSize then Memory.read s.mem t.Or.toNat
      else if t.Ir = 5 then s.A + s.B
      else if t.Ir = 6 then s.A - s.B
      else s.B

/-- zero and carry are written together, and only, by ADD and SUB (10_state.md section 5). -/
def Obligations.OnlyTheAluWritesFlags : Prop :=
  ∀ s t : State, step s = .next t →
    (t.Ir = 5 → t.zero = decide (t.B = 0) ∧ t.carry = decide (255 < s.A.toNat + s.B.toNat)) ∧
    (t.Ir = 6 → t.zero = decide (t.B = 0) ∧ t.carry = decide (s.A.toNat < s.B.toNat)) ∧
    (t.Ir ≠ 5 → t.Ir ≠ 6 → t.zero = s.zero ∧ t.carry = s.carry)

/-- Halted is raised by HLT and by nothing else, and is terminal (60_exceptions.md R172). endCause reads a run's end off its state. -/
def Obligations.OnlyHltHalts : Prop :=
  (∀ s t : State, step s = .next t → (t.halted = true ↔ t.Ir = 14)) ∧
    (∀ s : State, s.halted = true → ∀ t, step s ≠ .next t) ∧
    (∀ s : State, endCause s = .halted ↔ s.halted = true ∧ s.fault = none)

/-- What reaches the memory (20_memory.md section 1), byte by byte, for every instruction and every state. -/
def Obligations.OnlyStoresWriteMemory : Prop :=
  ∀ (i : Instr) (s t : State), exec i s = .next t →
    ∀ a : Nat, (∀ addr : Nibble, i = .sta addr ∨ i = .stb addr → a ≠ dataAddress addr) →
      Memory.read t.mem a = Memory.read s.mem a

/-- out is appended to by OUT only and diag by the unassigned opcodes only (10_state.md section 6; contents D10, D11). -/
def Obligations.OnlyOutAndUnassignedAppend : Prop :=
  ∀ s t : State, step s = .next t →
    t.out = (if t.Ir = 15 then s.out ++ [s.A] else s.out) ∧
    t.diag = (if t.Ir = 10 ∨ t.Ir = 11 ∨ t.Ir = 12 ∨ t.Ir = 13
      then s.diag ++ [⟨s.PC, Memory.read s.mem s.PC.toNat⟩] else s.diag)

/-- The low nibble of NOP, ADD, SUB, HLT and OUT is ignored and still latched (30_encoding.md section 4; 92_eei_decisions.md D9). -/
def Obligations.UnusedOperandIsOnlyLatched : Prop :=
  ∀ (p : Nibble) (s : State),
    (∃ t, exec (.nop 0) s = .next t ∧ exec (.nop p) s = .next { t with Or := p }) ∧
    (∃ t, exec (.add 0) s = .next t ∧ exec (.add p) s = .next { t with Or := p }) ∧
    (∃ t, exec (.sub 0) s = .next t ∧ exec (.sub p) s = .next { t with Or := p }) ∧
    (∃ t, exec (.hlt 0) s = .next t ∧ exec (.hlt p) s = .next { t with Or := p }) ∧
    (∃ t, exec (.out 0) s = .next t ∧ exec (.out p) s = .next { t with Or := p })

/-- The four unassigned opcodes behave exactly as NOP apart from Ir and the report (44_system.md, unassigned opcodes). -/
def Obligations.UnassignedIsNopButForTheReport : Prop :=
  ∀ (p : Nibble) (s : State), ∃ t, exec (.nop p) s = .next t ∧
    exec (.unassigned10 p) s = .next { t with Ir := 10, diag := s.diag ++ [⟨s.PC, packByte 10 p⟩] } ∧
    exec (.unassigned11 p) s = .next { t with Ir := 11, diag := s.diag ++ [⟨s.PC, packByte 11 p⟩] } ∧
    exec (.unassigned12 p) s = .next { t with Ir := 12, diag := s.diag ++ [⟨s.PC, packByte 12 p⟩] } ∧
    exec (.unassigned13 p) s = .next { t with Ir := 13, diag := s.diag ++ [⟨s.PC, packByte 13 p⟩] }

/-- Self-modifying code (20_memory.md section 5): a byte stored to the next address is what the next step executes; and a store to its
own address does not change the instruction in progress (20_memory.md section 2). -/
def Obligations.StoredInstructionExecutesNext : Prop :=
  ∀ (addr : Nibble) (s : State), Ready s → Memory.wf s.mem = true →
    decode (Memory.read s.mem s.PC.toNat) = .sta addr →
    (addr.toNat = s.PC.toNat + 1 → addr.toNat < s.memSize →
      ∃ t, step s = .next t ∧ step t = exec (decode s.A) t) ∧
    (addr.toNat = s.PC.toNat → ∃ t, step s = .next t ∧ t.Ir = 2 ∧ Memory.read t.mem s.PC.toNat = s.A)

/-- The ALU and the instructions that use it (42_alu.md R140), in every state. -/
def Obligations.AluMeetsItsDefinition : Prop :=
  (∀ a b : Byte,
      ((aluApply .add a b).newB.toNat : Int) = ((a.toNat : Int) + b.toNat) % 256 ∧
      ((aluApply .add a b).zero = true ↔ ((a.toNat : Int) + b.toNat) % 256 = 0) ∧
      ((aluApply .add a b).carry = true ↔ (a.toNat : Int) + b.toNat > 255 ∨ (a.toNat : Int) + b.toNat < 0) ∧
      ((aluApply .sub a b).newB.toNat : Int) = ((a.toNat : Int) - b.toNat) % 256 ∧
      ((aluApply .sub a b).zero = true ↔ ((a.toNat : Int) - b.toNat) % 256 = 0) ∧
      ((aluApply .sub a b).carry = true ↔ (a.toNat : Int) - b.toNat > 255 ∨ (a.toNat : Int) - b.toNat < 0)) ∧
    (∀ (p : Nibble) (s : State),
      (∃ t, exec (.add p) s = .next t ∧ t.A = s.A ∧ t.B = (aluApply .add s.A s.B).newB ∧
        t.zero = (aluApply .add s.A s.B).zero ∧ t.carry = (aluApply .add s.A s.B).carry) ∧
      (∃ t, exec (.sub p) s = .next t ∧ t.A = s.A ∧ t.B = (aluApply .sub s.A s.B).newB ∧
        t.zero = (aluApply .sub s.A s.B).zero ∧ t.carry = (aluApply .sub s.A s.B).carry))

/-- The document's two ALU test properties (42_alu.md R147). -/
def Obligations.AluTestProperties : Prop :=
  aluApply .add 0xFF 0x01 = { newB := 0x00, zero := true, carry := true } ∧
    aluApply .sub 0x05 0x0A = { newB := 0xFB, zero := false, carry := true }

/-- The 9-bit hardware reading of the ALU is equivalent to its definition for every input (42_alu.md section 1, marked derived there). -/
def Obligations.HardwareAluIsTheAlu : Prop :=
  ∀ (op : AluOp) (a b : Byte), aluHardware op a b = aluApply op a b

/-- Comparison by SUB, and SUB twice (42_alu.md sections 2 and 3, marked derived there). -/
def Obligations.SubComparesAndUndoesItself : Prop :=
  ∀ a b : Byte,
    ((aluApply .sub a b).zero = true ↔ a = b) ∧ ((aluApply .sub a b).carry = true ↔ a.toNat < b.toNat) ∧
    ¬((aluApply .sub a b).zero = true ∧ (aluApply .sub a b).carry = true) ∧
    ((aluApply .add a b).zero = true ∧ (aluApply .add a b).carry = true ↔ a.toNat + b.toNat = 256) ∧
    (aluApply .sub a (aluApply .sub a b).newB).newB = b

/-- After n ADDs B is B0 + n * A modulo 256 (42_alu.md section 2, ADD). -/
def Obligations.RepeatedAddAccumulates : Prop :=
  ∀ (n : Nat) (a b : Byte),
    ((fun x => (aluApply .add a x).newB)^[n] b).toNat = (b.toNat + n * a.toNat) % 256

/-- Reset with an image (70_reset_and_hazards.md R200; 10_state.md R39), for every legal memory size. -/
def Obligations.ResetEstablishesTheInitialState : Prop :=
  ∀ (memSize : Nat) (image : List Byte), Config.legalMemSize memSize = true → image.length = memSize →
    ∃ s, resetWith memSize image = some s ∧
      s.A = 0 ∧ s.B = 0 ∧ s.PC = 0 ∧ s.Ir = 0 ∧ s.Or = 0 ∧ s.zero = false ∧ s.carry = false ∧ s.halted = false ∧
      s.fault = none ∧ s.out = [] ∧ s.diag = [] ∧ s.steps = 0 ∧ s.memSize = memSize ∧ s.running = true ∧
      ∀ (a : Nat) (h : a < image.length), Memory.read s.mem a = image[a]

/-- An image of another length, or for an illegal size, is refused (92_eei_decisions.md D1, D15). -/
def Obligations.ResetRefusesOtherImages : Prop :=
  ∀ (memSize : Nat) (image : List Byte),
    resetWith memSize image = none ↔ Config.legalMemSize memSize = false ∨ image.length ≠ memSize

/-- State.reset is reset in the reference configuration with sixteen zero bytes: the choice of that image is the model's (log entry 8). -/
def Obligations.ReferenceResetIsTheZeroImage : Prop :=
  resetWith Config.refMemSize (List.replicate 16 0) = some State.reset

/-- The invariant holds right after reset (10_state.md section 9, marked derived there). -/
def Obligations.InvariantAtReferenceReset : Prop :=
  Invariant State.reset

/-- The invariant holds after reset with any image (10_state.md section 9, marked derived there). -/
def Obligations.InvariantAtEveryReset : Prop :=
  ∀ (memSize : Nat) (image : List Byte) (s : State), resetWith memSize image = some s → Invariant s

/-- Every step keeps the invariant, from every state that has it (10_state.md section 9, marked derived there). -/
def Obligations.StepKeepsInvariant : Prop :=
  ∀ s t : State, Invariant s → step s = .next t → Invariant t

/-- What keeps a step safe (20_memory.md section 3; 40_step_cycle.md section 1): an operand inside memory and a PC before the last
address, or a HLT. -/
def Obligations.SafeOperandsNeverFault : Prop :=
  ∀ s : State, ReadyBeforeLast s →
    operandInside s.memSize (decode (Memory.read s.mem s.PC.toNat)) = true →
    ∃ t, step s = .next t ∧ safeEnd t ∧ (t.halted = true ∨ Ready t)

/-- The run and its end (40_step_cycle.md section 2, 92_eei_decisions.md D7; clause (e) of 10_state.md section 9). -/
def Obligations.RunEndsInOneOfThreeWays : Prop :=
  ∀ (memSize maxSteps : Nat) (image : List Byte) (s : State), run memSize maxSteps image = some s →
    Invariant s ∧ s.memSize = memSize ∧ s.steps ≤ maxSteps ∧
    match endCause s with
    | .halted => s.halted = true ∧ s.fault = none
    | .faulted record => s.fault = some record ∧ s.halted = false
    | .stepLimitReached => s.running = true ∧ s.steps = maxSteps

/-- The run's final state is what its counted steps give from reset (40_step_cycle.md section 2; the step count D7). -/
def Obligations.RunIsIteratedStep : Prop :=
  ∀ (memSize maxSteps : Nat) (image : List Byte) (s : State), run memSize maxSteps image = some s →
    ∃ s₀, resetWith memSize image = some s₀ ∧ Sys2Proof.core.run s.steps s₀ = .next s

/-- MAX_STEPS only bounds a run (40_step_cycle.md section 2; 92_eei_decisions.md D13). -/
def Obligations.LargerBoundChangesNothing : Prop :=
  ∀ (memSize m n : Nat) (image : List Byte) (s : State), m ≤ n → run memSize m image = some s → s.running = false →
    run memSize n image = some s

/-- With MAX_STEPS = 0 the result is the reset state (40_step_cycle.md section 2, marked derived there). -/
def Obligations.ZeroBoundTakesNoStep : Prop :=
  ∀ (memSize : Nat) (image : List Byte), run memSize 0 image = resetWith memSize image

/-- withFetchWord stands for the host's loading of an image (log entry 8): the next step runs the placed byte's instruction. -/
def Obligations.FetchWordIsExecuted : Prop :=
  ∀ (byte : Byte) (s : State), Ready s → Memory.wf s.mem = true →
    decodeTableWord 8 byte.toNat = some (decode byte) ∧
    step (s.withFetchWord 8 byte.toNat) = exec (decode byte) (s.withFetchWord 8 byte.toNat) ∧
    (∀ a, a ≠ s.PC.toNat → Memory.read (s.withFetchWord 8 byte.toNat).mem a = Memory.read s.mem a)

/-- The assembler's output (30_encoding.md section 5). -/
def Obligations.AssembledImageHasMemSizeBytes : Prop :=
  ∀ (lines : List SourceLine) (memSize : Nat) (bytes : List Byte), assemble lines memSize = .ok bytes →
    bytes.length = memSize ∧
    (∀ k, lines.length ≤ k → k < memSize → bytes[k]? = some 0) ∧
    (∀ (k : Nat) (line : SourceLine), k < memSize → lines[k]? = some line →
      ∃ byte, assembleLine line = .ok byte ∧ bytes[k]? = some byte)

/-- Lines beyond the capacity are discarded without an error (30_encoding.md section 5). -/
def Obligations.LinesBeyondCapacityAreDropped : Prop :=
  ∀ (lines more : List SourceLine) (memSize : Nat), lines.length = memSize →
    assemble (lines ++ more) memSize = assemble lines memSize

/-- Unknown mnemonics fall back to opcode 0 (30_encoding.md R100). -/
def Obligations.UnknownMnemonicIsNop : Prop :=
  (∀ (line : SourceLine) (mnemonic operand : List Char) (p : Nibble), tokens line = [mnemonic, operand] →
      mnemonic ∉ namedTokens → parseOperand operand = .ok p → assembleLine line = .ok (packByte 0 p)) ∧
    assembleLine ['f', 'o', 'o', ' ', '7'] = .ok 0x07 ∧ assembleLine ['L', 'D', 'A', ' ', '5'] = .ok 0x05

/-- The assembler's operand policy (30_encoding.md section 5; 92_eei_decisions.md D8). -/
def Obligations.OperandAboveFifteenIsRejected : Prop :=
  ∀ (line : SourceLine) (mnemonic operand : List Char) (n : Nat), tokens line = [mnemonic, operand] →
    decimal operand = some n →
    assembleLine line =
      if n ≤ 15 then .ok (packByte (mnemonicOpcode mnemonic) (BitVec.ofNat 4 n)) else .error .fileFormatError
end

