-- ==== Sys2Proof/Laws/Memory.lean ====
section
/-! SUPPORT. The laws of memory: reads after writes, and that every memory operation keeps the canonical form. -/

namespace Sys2Proof.Machine

@[simp] theorem Memory.read_nil (addr : Nat) : Memory.read [] addr = Memory.unlistedByte := rfl

theorem Memory.wfFrom_mono {low low' : Nat} (h : low ≤ low') (m : Memory) :
    Memory.wfFrom low' m = true → Memory.wfFrom low m = true := by
  cases m with
  | nil => simp [Memory.wfFrom]
  | cons cell rest =>
    simp only [Memory.wfFrom, Bool.and_eq_true, decide_eq_true_eq]
    rintro ⟨⟨hlow, hbyte⟩, hrest⟩
    exact ⟨⟨by omega, hbyte⟩, hrest⟩

/-- A canonical memory holds nothing below its first possible address. -/
theorem Memory.read_below {low addr : Nat} (m : Memory) (hm : Memory.wfFrom low m = true) (h : addr < low) :
    Memory.read m addr = Memory.unlistedByte := by
  induction m generalizing low with
  | nil => rfl
  | cons cell rest ih =>
    simp only [Memory.wfFrom, Bool.and_eq_true, decide_eq_true_eq] at hm
    obtain ⟨⟨hlow, -⟩, hrest⟩ := hm
    rw [Memory.read, if_neg (by omega)]
    exact ih hrest (by omega)

theorem Memory.wfFrom_write {low addr : Nat} (m : Memory) (byte : Byte) (hm : Memory.wfFrom low m = true)
    (h : low ≤ addr) : Memory.wfFrom low (Memory.write m addr byte) = true := by
  induction m generalizing low with
  | nil =>
    unfold Memory.write
    split
    · rfl
    · simp_all [Memory.wfFrom]
  | cons cell rest ih =>
    obtain ⟨key, old⟩ := cell
    have hm' := hm
    simp only [Memory.wfFrom, Bool.and_eq_true, decide_eq_true_eq] at hm'
    obtain ⟨⟨hlow, hold⟩, hrest⟩ := hm'
    unfold Memory.write
    split
    · split
      · exact hm
      · simp only [Memory.wfFrom, Bool.and_eq_true, decide_eq_true_eq]
        exact ⟨⟨h, ‹_›⟩, ⟨by omega, hold⟩, hrest⟩
    · split
      · split
        · exact Memory.wfFrom_mono (by omega) rest hrest
        · subst_vars
          simp only [Memory.wfFrom, Bool.and_eq_true, decide_eq_true_eq]
          exact ⟨⟨h, ‹_›⟩, hrest⟩
      · simp only [Memory.wfFrom, Bool.and_eq_true, decide_eq_true_eq]
        exact ⟨⟨hlow, hold⟩, ih hrest (by omega)⟩

/-- A write keeps the canonical form. -/
theorem Memory.wf_write (m : Memory) (addr : Nat) (byte : Byte) (hm : Memory.wf m = true) :
    Memory.wf (Memory.write m addr byte) = true :=
  Memory.wfFrom_write m byte hm (Nat.zero_le _)

theorem Memory.read_write_same_from {low : Nat} (m : Memory) (addr : Nat) (byte : Byte)
    (hm : Memory.wfFrom low m = true) : Memory.read (Memory.write m addr byte) addr = byte := by
  induction m generalizing low with
  | nil =>
    unfold Memory.write
    split
    · simp_all
    · simp [Memory.read]
  | cons cell rest ih =>
    obtain ⟨key, old⟩ := cell
    simp only [Memory.wfFrom, Bool.and_eq_true, decide_eq_true_eq] at hm
    obtain ⟨-, hrest⟩ := hm
    unfold Memory.write
    split
    · split
      · rename_i hlt hbyte
        rw [Memory.read, if_neg (by omega), hbyte]
        exact Memory.read_below rest hrest (by omega)
      · simp [Memory.read]
    · split
      · split
        · rename_i heq hbyte
          rw [hbyte]
          exact Memory.read_below rest hrest (by omega)
        · simp [Memory.read]
      · rw [Memory.read, if_neg (by omega)]
        exact ih hrest

/-- In a canonical memory a read after a write to the same cell gives the byte written. -/
theorem Memory.read_write_same (m : Memory) (addr : Nat) (byte : Byte) (hm : Memory.wf m = true) :
    Memory.read (Memory.write m addr byte) addr = byte :=
  Memory.read_write_same_from m addr byte hm

/-- A write leaves every other cell alone, in any memory. -/
theorem Memory.read_write_other (m : Memory) (addr other : Nat) (byte : Byte) (h : other ≠ addr) :
    Memory.read (Memory.write m addr byte) other = Memory.read m other := by
  induction m with
  | nil =>
    unfold Memory.write
    split
    · rfl
    · simp [Memory.read, Ne.symm h]
  | cons cell rest ih =>
    obtain ⟨key, old⟩ := cell
    unfold Memory.write
    split
    · split
      · rfl
      · rw [Memory.read, if_neg (Ne.symm h)]
    · split
      · rename_i heq
        subst heq
        split <;> simp [Memory.read, Ne.symm h]
      · simp only [Memory.read, ih]

/-- A write inside the memory's size leaves nothing listed outside it. -/
theorem Memory.within_write (size : Nat) (m : Memory) (addr : Nat) (byte : Byte)
    (hm : Memory.within size m = true) (h : addr < size) : Memory.within size (Memory.write m addr byte) = true := by
  induction m with
  | nil =>
    unfold Memory.write
    split <;> simp_all [Memory.within]
  | cons cell rest ih =>
    obtain ⟨key, old⟩ := cell
    simp only [Memory.within, Bool.and_eq_true, decide_eq_true_eq] at hm
    unfold Memory.write
    split
    · split <;> simp_all [Memory.within]
    · split
      · split <;> simp_all [Memory.within]
      · simp_all [Memory.within]

theorem Memory.wfFrom_ofBytes {low addr : Nat} (bytes : List Byte) (h : low ≤ addr) :
    Memory.wfFrom low (Memory.ofBytes addr bytes) = true := by
  induction bytes generalizing low addr with
  | nil => rfl
  | cons byte rest ih =>
    unfold Memory.ofBytes
    split
    · exact ih (by omega)
    · simp only [Memory.wfFrom, Bool.and_eq_true, decide_eq_true_eq]
      exact ⟨⟨h, ‹_›⟩, ih (Nat.le_refl _)⟩

/-- An image is loaded in canonical form. -/
theorem Memory.wf_ofBytes (bytes : List Byte) : Memory.wf (Memory.ofBytes 0 bytes) = true :=
  Memory.wfFrom_ofBytes bytes (Nat.le_refl _)

/-- An image lists only the addresses it has bytes for. -/
theorem Memory.within_ofBytes {size addr : Nat} (bytes : List Byte) (h : addr + bytes.length ≤ size) :
    Memory.within size (Memory.ofBytes addr bytes) = true := by
  induction bytes generalizing addr with
  | nil => rfl
  | cons byte rest ih =>
    simp only [List.length_cons] at h
    unfold Memory.ofBytes
    split
    · exact ih (by omega)
    · simp only [Memory.within, Bool.and_eq_true, decide_eq_true_eq]
      exact ⟨by omega, ih (by omega)⟩

/-- A loaded image reads back as its bytes. -/
theorem Memory.read_ofBytes {addr : Nat} (bytes : List Byte) (k : Nat) (h : k < bytes.length) :
    Memory.read (Memory.ofBytes addr bytes) (addr + k) = bytes[k] := by
  induction bytes generalizing addr k with
  | nil => simp at h
  | cons byte rest ih =>
    unfold Memory.ofBytes
    cases k with
    | zero =>
      split
      · rename_i hbyte
        rw [Memory.read_below _ (Memory.wfFrom_ofBytes rest (Nat.le_refl _)) (by omega)]
        simp [hbyte]
      · simp [Memory.read]
    | succ k =>
      simp only [List.length_cons] at h
      have hrest := ih (addr := addr + 1) k (by omega)
      have haddr : addr + (k + 1) = addr + 1 + k := by omega
      split
      · rw [haddr, hrest]; rfl
      · rw [Memory.read, if_neg (by omega), haddr, hrest]; rfl

end Sys2Proof.Machine
end

