-- ==== Sys2Proof/Laws/State.lean ====
section
/-! SUPPORT. What each named update does to each field of the state: one lemma per field per update. -/

namespace Sys2Proof.Machine

/-! ### storeByte -/

@[simp] theorem State.storeByte_A (s : State) (addr : Nat) (byte : Byte) : (s.storeByte addr byte).A = s.A := rfl
@[simp] theorem State.storeByte_B (s : State) (addr : Nat) (byte : Byte) : (s.storeByte addr byte).B = s.B := rfl
@[simp] theorem State.storeByte_PC (s : State) (addr : Nat) (byte : Byte) : (s.storeByte addr byte).PC = s.PC := rfl
@[simp] theorem State.storeByte_Ir (s : State) (addr : Nat) (byte : Byte) : (s.storeByte addr byte).Ir = s.Ir := rfl
@[simp] theorem State.storeByte_Or (s : State) (addr : Nat) (byte : Byte) : (s.storeByte addr byte).Or = s.Or := rfl
@[simp] theorem State.storeByte_zero (s : State) (addr : Nat) (byte : Byte) : (s.storeByte addr byte).zero = s.zero := rfl
@[simp] theorem State.storeByte_carry (s : State) (addr : Nat) (byte : Byte) : (s.storeByte addr byte).carry = s.carry := rfl
@[simp] theorem State.storeByte_halted (s : State) (addr : Nat) (byte : Byte) : (s.storeByte addr byte).halted = s.halted := rfl
@[simp] theorem State.storeByte_fault (s : State) (addr : Nat) (byte : Byte) : (s.storeByte addr byte).fault = s.fault := rfl
@[simp] theorem State.storeByte_mem (s : State) (addr : Nat) (byte : Byte) : (s.storeByte addr byte).mem = Memory.write s.mem addr byte := rfl
@[simp] theorem State.storeByte_out (s : State) (addr : Nat) (byte : Byte) : (s.storeByte addr byte).out = s.out := rfl
@[simp] theorem State.storeByte_diag (s : State) (addr : Nat) (byte : Byte) : (s.storeByte addr byte).diag = s.diag := rfl
@[simp] theorem State.storeByte_steps (s : State) (addr : Nat) (byte : Byte) : (s.storeByte addr byte).steps = s.steps := rfl
@[simp] theorem State.storeByte_memSize (s : State) (addr : Nat) (byte : Byte) : (s.storeByte addr byte).memSize = s.memSize := rfl

/-! ### setA -/

@[simp] theorem State.setA_A (s : State) (byte : Byte) : (s.setA byte).A = byte := rfl
@[simp] theorem State.setA_B (s : State) (byte : Byte) : (s.setA byte).B = s.B := rfl
@[simp] theorem State.setA_PC (s : State) (byte : Byte) : (s.setA byte).PC = s.PC := rfl
@[simp] theorem State.setA_Ir (s : State) (byte : Byte) : (s.setA byte).Ir = s.Ir := rfl
@[simp] theorem State.setA_Or (s : State) (byte : Byte) : (s.setA byte).Or = s.Or := rfl
@[simp] theorem State.setA_zero (s : State) (byte : Byte) : (s.setA byte).zero = s.zero := rfl
@[simp] theorem State.setA_carry (s : State) (byte : Byte) : (s.setA byte).carry = s.carry := rfl
@[simp] theorem State.setA_halted (s : State) (byte : Byte) : (s.setA byte).halted = s.halted := rfl
@[simp] theorem State.setA_fault (s : State) (byte : Byte) : (s.setA byte).fault = s.fault := rfl
@[simp] theorem State.setA_mem (s : State) (byte : Byte) : (s.setA byte).mem = s.mem := rfl
@[simp] theorem State.setA_out (s : State) (byte : Byte) : (s.setA byte).out = s.out := rfl
@[simp] theorem State.setA_diag (s : State) (byte : Byte) : (s.setA byte).diag = s.diag := rfl
@[simp] theorem State.setA_steps (s : State) (byte : Byte) : (s.setA byte).steps = s.steps := rfl
@[simp] theorem State.setA_memSize (s : State) (byte : Byte) : (s.setA byte).memSize = s.memSize := rfl

/-! ### setB -/

@[simp] theorem State.setB_A (s : State) (byte : Byte) : (s.setB byte).A = s.A := rfl
@[simp] theorem State.setB_B (s : State) (byte : Byte) : (s.setB byte).B = byte := rfl
@[simp] theorem State.setB_PC (s : State) (byte : Byte) : (s.setB byte).PC = s.PC := rfl
@[simp] theorem State.setB_Ir (s : State) (byte : Byte) : (s.setB byte).Ir = s.Ir := rfl
@[simp] theorem State.setB_Or (s : State) (byte : Byte) : (s.setB byte).Or = s.Or := rfl
@[simp] theorem State.setB_zero (s : State) (byte : Byte) : (s.setB byte).zero = s.zero := rfl
@[simp] theorem State.setB_carry (s : State) (byte : Byte) : (s.setB byte).carry = s.carry := rfl
@[simp] theorem State.setB_halted (s : State) (byte : Byte) : (s.setB byte).halted = s.halted := rfl
@[simp] theorem State.setB_fault (s : State) (byte : Byte) : (s.setB byte).fault = s.fault := rfl
@[simp] theorem State.setB_mem (s : State) (byte : Byte) : (s.setB byte).mem = s.mem := rfl
@[simp] theorem State.setB_out (s : State) (byte : Byte) : (s.setB byte).out = s.out := rfl
@[simp] theorem State.setB_diag (s : State) (byte : Byte) : (s.setB byte).diag = s.diag := rfl
@[simp] theorem State.setB_steps (s : State) (byte : Byte) : (s.setB byte).steps = s.steps := rfl
@[simp] theorem State.setB_memSize (s : State) (byte : Byte) : (s.setB byte).memSize = s.memSize := rfl

/-! ### setPC -/

@[simp] theorem State.setPC_A (s : State) (target : Byte) : (s.setPC target).A = s.A := rfl
@[simp] theorem State.setPC_B (s : State) (target : Byte) : (s.setPC target).B = s.B := rfl
@[simp] theorem State.setPC_PC (s : State) (target : Byte) : (s.setPC target).PC = target := rfl
@[simp] theorem State.setPC_Ir (s : State) (target : Byte) : (s.setPC target).Ir = s.Ir := rfl
@[simp] theorem State.setPC_Or (s : State) (target : Byte) : (s.setPC target).Or = s.Or := rfl
@[simp] theorem State.setPC_zero (s : State) (target : Byte) : (s.setPC target).zero = s.zero := rfl
@[simp] theorem State.setPC_carry (s : State) (target : Byte) : (s.setPC target).carry = s.carry := rfl
@[simp] theorem State.setPC_halted (s : State) (target : Byte) : (s.setPC target).halted = s.halted := rfl
@[simp] theorem State.setPC_fault (s : State) (target : Byte) : (s.setPC target).fault = s.fault := rfl
@[simp] theorem State.setPC_mem (s : State) (target : Byte) : (s.setPC target).mem = s.mem := rfl
@[simp] theorem State.setPC_out (s : State) (target : Byte) : (s.setPC target).out = s.out := rfl
@[simp] theorem State.setPC_diag (s : State) (target : Byte) : (s.setPC target).diag = s.diag := rfl
@[simp] theorem State.setPC_steps (s : State) (target : Byte) : (s.setPC target).steps = s.steps := rfl
@[simp] theorem State.setPC_memSize (s : State) (target : Byte) : (s.setPC target).memSize = s.memSize := rfl

/-! ### setAlu -/

@[simp] theorem State.setAlu_A (s : State) (r : AluResult) : (s.setAlu r).A = s.A := rfl
@[simp] theorem State.setAlu_B (s : State) (r : AluResult) : (s.setAlu r).B = r.newB := rfl
@[simp] theorem State.setAlu_PC (s : State) (r : AluResult) : (s.setAlu r).PC = s.PC := rfl
@[simp] theorem State.setAlu_Ir (s : State) (r : AluResult) : (s.setAlu r).Ir = s.Ir := rfl
@[simp] theorem State.setAlu_Or (s : State) (r : AluResult) : (s.setAlu r).Or = s.Or := rfl
@[simp] theorem State.setAlu_zero (s : State) (r : AluResult) : (s.setAlu r).zero = r.zero := rfl
@[simp] theorem State.setAlu_carry (s : State) (r : AluResult) : (s.setAlu r).carry = r.carry := rfl
@[simp] theorem State.setAlu_halted (s : State) (r : AluResult) : (s.setAlu r).halted = s.halted := rfl
@[simp] theorem State.setAlu_fault (s : State) (r : AluResult) : (s.setAlu r).fault = s.fault := rfl
@[simp] theorem State.setAlu_mem (s : State) (r : AluResult) : (s.setAlu r).mem = s.mem := rfl
@[simp] theorem State.setAlu_out (s : State) (r : AluResult) : (s.setAlu r).out = s.out := rfl
@[simp] theorem State.setAlu_diag (s : State) (r : AluResult) : (s.setAlu r).diag = s.diag := rfl
@[simp] theorem State.setAlu_steps (s : State) (r : AluResult) : (s.setAlu r).steps = s.steps := rfl
@[simp] theorem State.setAlu_memSize (s : State) (r : AluResult) : (s.setAlu r).memSize = s.memSize := rfl

/-! ### halt -/

@[simp] theorem State.halt_A (s : State) : (s.halt).A = s.A := rfl
@[simp] theorem State.halt_B (s : State) : (s.halt).B = s.B := rfl
@[simp] theorem State.halt_PC (s : State) : (s.halt).PC = s.PC := rfl
@[simp] theorem State.halt_Ir (s : State) : (s.halt).Ir = s.Ir := rfl
@[simp] theorem State.halt_Or (s : State) : (s.halt).Or = s.Or := rfl
@[simp] theorem State.halt_zero (s : State) : (s.halt).zero = s.zero := rfl
@[simp] theorem State.halt_carry (s : State) : (s.halt).carry = s.carry := rfl
@[simp] theorem State.halt_halted (s : State) : (s.halt).halted = true := rfl
@[simp] theorem State.halt_fault (s : State) : (s.halt).fault = s.fault := rfl
@[simp] theorem State.halt_mem (s : State) : (s.halt).mem = s.mem := rfl
@[simp] theorem State.halt_out (s : State) : (s.halt).out = s.out := rfl
@[simp] theorem State.halt_diag (s : State) : (s.halt).diag = s.diag := rfl
@[simp] theorem State.halt_steps (s : State) : (s.halt).steps = s.steps := rfl
@[simp] theorem State.halt_memSize (s : State) : (s.halt).memSize = s.memSize := rfl

/-! ### emit -/

@[simp] theorem State.emit_A (s : State) (byte : Byte) : (s.emit byte).A = s.A := rfl
@[simp] theorem State.emit_B (s : State) (byte : Byte) : (s.emit byte).B = s.B := rfl
@[simp] theorem State.emit_PC (s : State) (byte : Byte) : (s.emit byte).PC = s.PC := rfl
@[simp] theorem State.emit_Ir (s : State) (byte : Byte) : (s.emit byte).Ir = s.Ir := rfl
@[simp] theorem State.emit_Or (s : State) (byte : Byte) : (s.emit byte).Or = s.Or := rfl
@[simp] theorem State.emit_zero (s : State) (byte : Byte) : (s.emit byte).zero = s.zero := rfl
@[simp] theorem State.emit_carry (s : State) (byte : Byte) : (s.emit byte).carry = s.carry := rfl
@[simp] theorem State.emit_halted (s : State) (byte : Byte) : (s.emit byte).halted = s.halted := rfl
@[simp] theorem State.emit_fault (s : State) (byte : Byte) : (s.emit byte).fault = s.fault := rfl
@[simp] theorem State.emit_mem (s : State) (byte : Byte) : (s.emit byte).mem = s.mem := rfl
@[simp] theorem State.emit_out (s : State) (byte : Byte) : (s.emit byte).out = s.out ++ [byte] := rfl
@[simp] theorem State.emit_diag (s : State) (byte : Byte) : (s.emit byte).diag = s.diag := rfl
@[simp] theorem State.emit_steps (s : State) (byte : Byte) : (s.emit byte).steps = s.steps := rfl
@[simp] theorem State.emit_memSize (s : State) (byte : Byte) : (s.emit byte).memSize = s.memSize := rfl

/-! ### report -/

@[simp] theorem State.report_A (s : State) (addr byte : Byte) : (s.report addr byte).A = s.A := rfl
@[simp] theorem State.report_B (s : State) (addr byte : Byte) : (s.report addr byte).B = s.B := rfl
@[simp] theorem State.report_PC (s : State) (addr byte : Byte) : (s.report addr byte).PC = s.PC := rfl
@[simp] theorem State.report_Ir (s : State) (addr byte : Byte) : (s.report addr byte).Ir = s.Ir := rfl
@[simp] theorem State.report_Or (s : State) (addr byte : Byte) : (s.report addr byte).Or = s.Or := rfl
@[simp] theorem State.report_zero (s : State) (addr byte : Byte) : (s.report addr byte).zero = s.zero := rfl
@[simp] theorem State.report_carry (s : State) (addr byte : Byte) : (s.report addr byte).carry = s.carry := rfl
@[simp] theorem State.report_halted (s : State) (addr byte : Byte) : (s.report addr byte).halted = s.halted := rfl
@[simp] theorem State.report_fault (s : State) (addr byte : Byte) : (s.report addr byte).fault = s.fault := rfl
@[simp] theorem State.report_mem (s : State) (addr byte : Byte) : (s.report addr byte).mem = s.mem := rfl
@[simp] theorem State.report_out (s : State) (addr byte : Byte) : (s.report addr byte).out = s.out := rfl
@[simp] theorem State.report_diag (s : State) (addr byte : Byte) : (s.report addr byte).diag = s.diag ++ [⟨addr, byte⟩] := rfl
@[simp] theorem State.report_steps (s : State) (addr byte : Byte) : (s.report addr byte).steps = s.steps := rfl
@[simp] theorem State.report_memSize (s : State) (addr byte : Byte) : (s.report addr byte).memSize = s.memSize := rfl

/-! ### raise -/

@[simp] theorem State.raise_A (s : State) (kind : FaultKind) (addr : Byte) : (s.raise kind addr).A = s.A := rfl
@[simp] theorem State.raise_B (s : State) (kind : FaultKind) (addr : Byte) : (s.raise kind addr).B = s.B := rfl
@[simp] theorem State.raise_PC (s : State) (kind : FaultKind) (addr : Byte) : (s.raise kind addr).PC = s.PC := rfl
@[simp] theorem State.raise_Ir (s : State) (kind : FaultKind) (addr : Byte) : (s.raise kind addr).Ir = s.Ir := rfl
@[simp] theorem State.raise_Or (s : State) (kind : FaultKind) (addr : Byte) : (s.raise kind addr).Or = s.Or := rfl
@[simp] theorem State.raise_zero (s : State) (kind : FaultKind) (addr : Byte) : (s.raise kind addr).zero = s.zero := rfl
@[simp] theorem State.raise_carry (s : State) (kind : FaultKind) (addr : Byte) : (s.raise kind addr).carry = s.carry := rfl
@[simp] theorem State.raise_halted (s : State) (kind : FaultKind) (addr : Byte) : (s.raise kind addr).halted = s.halted := rfl
@[simp] theorem State.raise_fault (s : State) (kind : FaultKind) (addr : Byte) : (s.raise kind addr).fault = some ⟨kind, addr⟩ := rfl
@[simp] theorem State.raise_mem (s : State) (kind : FaultKind) (addr : Byte) : (s.raise kind addr).mem = s.mem := rfl
@[simp] theorem State.raise_out (s : State) (kind : FaultKind) (addr : Byte) : (s.raise kind addr).out = s.out := rfl
@[simp] theorem State.raise_diag (s : State) (kind : FaultKind) (addr : Byte) : (s.raise kind addr).diag = s.diag := rfl
@[simp] theorem State.raise_steps (s : State) (kind : FaultKind) (addr : Byte) : (s.raise kind addr).steps = s.steps := rfl
@[simp] theorem State.raise_memSize (s : State) (kind : FaultKind) (addr : Byte) : (s.raise kind addr).memSize = s.memSize := rfl

/-! ### beginStep -/

@[simp] theorem State.beginStep_A (s : State) (i : Instr) : (s.beginStep i).A = s.A := rfl
@[simp] theorem State.beginStep_B (s : State) (i : Instr) : (s.beginStep i).B = s.B := rfl
@[simp] theorem State.beginStep_PC (s : State) (i : Instr) : (s.beginStep i).PC = s.PC + 1 := rfl
@[simp] theorem State.beginStep_Ir (s : State) (i : Instr) : (s.beginStep i).Ir = i.opcode := rfl
@[simp] theorem State.beginStep_Or (s : State) (i : Instr) : (s.beginStep i).Or = i.operand := rfl
@[simp] theorem State.beginStep_zero (s : State) (i : Instr) : (s.beginStep i).zero = s.zero := rfl
@[simp] theorem State.beginStep_carry (s : State) (i : Instr) : (s.beginStep i).carry = s.carry := rfl
@[simp] theorem State.beginStep_halted (s : State) (i : Instr) : (s.beginStep i).halted = s.halted := rfl
@[simp] theorem State.beginStep_fault (s : State) (i : Instr) : (s.beginStep i).fault = s.fault := rfl
@[simp] theorem State.beginStep_mem (s : State) (i : Instr) : (s.beginStep i).mem = s.mem := rfl
@[simp] theorem State.beginStep_out (s : State) (i : Instr) : (s.beginStep i).out = s.out := rfl
@[simp] theorem State.beginStep_diag (s : State) (i : Instr) : (s.beginStep i).diag = s.diag := rfl
@[simp] theorem State.beginStep_steps (s : State) (i : Instr) : (s.beginStep i).steps = s.steps + 1 := rfl
@[simp] theorem State.beginStep_memSize (s : State) (i : Instr) : (s.beginStep i).memSize = s.memSize := rfl

end Sys2Proof.Machine
end

