-- ==== Sys2Proof/Laws/Syntax.lean ====
section
/-! SUPPORT. The fields of each instruction, one lemma per constructor. -/

namespace Sys2Proof

/-! ### Opcodes (30_encoding.md R84) -/

@[simp] theorem Instr.opcode_nop (operand : Nibble) : (Instr.nop operand).opcode = 0 := rfl
@[simp] theorem Instr.opcode_lda (addr : Nibble) : (Instr.lda addr).opcode = 1 := rfl
@[simp] theorem Instr.opcode_sta (addr : Nibble) : (Instr.sta addr).opcode = 2 := rfl
@[simp] theorem Instr.opcode_ldb (addr : Nibble) : (Instr.ldb addr).opcode = 3 := rfl
@[simp] theorem Instr.opcode_stb (addr : Nibble) : (Instr.stb addr).opcode = 4 := rfl
@[simp] theorem Instr.opcode_add (operand : Nibble) : (Instr.add operand).opcode = 5 := rfl
@[simp] theorem Instr.opcode_sub (operand : Nibble) : (Instr.sub operand).opcode = 6 := rfl
@[simp] theorem Instr.opcode_jmp (target : Nibble) : (Instr.jmp target).opcode = 7 := rfl
@[simp] theorem Instr.opcode_jnz (target : Nibble) : (Instr.jnz target).opcode = 8 := rfl
@[simp] theorem Instr.opcode_jnc (target : Nibble) : (Instr.jnc target).opcode = 9 := rfl
@[simp] theorem Instr.opcode_unassigned10 (operand : Nibble) : (Instr.unassigned10 operand).opcode = 10 := rfl
@[simp] theorem Instr.opcode_unassigned11 (operand : Nibble) : (Instr.unassigned11 operand).opcode = 11 := rfl
@[simp] theorem Instr.opcode_unassigned12 (operand : Nibble) : (Instr.unassigned12 operand).opcode = 12 := rfl
@[simp] theorem Instr.opcode_unassigned13 (operand : Nibble) : (Instr.unassigned13 operand).opcode = 13 := rfl
@[simp] theorem Instr.opcode_hlt (operand : Nibble) : (Instr.hlt operand).opcode = 14 := rfl
@[simp] theorem Instr.opcode_out (operand : Nibble) : (Instr.out operand).opcode = 15 := rfl

/-! ### Operands -/

@[simp] theorem Instr.operand_nop (operand : Nibble) : (Instr.nop operand).operand = operand := rfl
@[simp] theorem Instr.operand_lda (addr : Nibble) : (Instr.lda addr).operand = addr := rfl
@[simp] theorem Instr.operand_sta (addr : Nibble) : (Instr.sta addr).operand = addr := rfl
@[simp] theorem Instr.operand_ldb (addr : Nibble) : (Instr.ldb addr).operand = addr := rfl
@[simp] theorem Instr.operand_stb (addr : Nibble) : (Instr.stb addr).operand = addr := rfl
@[simp] theorem Instr.operand_add (operand : Nibble) : (Instr.add operand).operand = operand := rfl
@[simp] theorem Instr.operand_sub (operand : Nibble) : (Instr.sub operand).operand = operand := rfl
@[simp] theorem Instr.operand_jmp (target : Nibble) : (Instr.jmp target).operand = target := rfl
@[simp] theorem Instr.operand_jnz (target : Nibble) : (Instr.jnz target).operand = target := rfl
@[simp] theorem Instr.operand_jnc (target : Nibble) : (Instr.jnc target).operand = target := rfl
@[simp] theorem Instr.operand_unassigned10 (operand : Nibble) : (Instr.unassigned10 operand).operand = operand := rfl
@[simp] theorem Instr.operand_unassigned11 (operand : Nibble) : (Instr.unassigned11 operand).operand = operand := rfl
@[simp] theorem Instr.operand_unassigned12 (operand : Nibble) : (Instr.unassigned12 operand).operand = operand := rfl
@[simp] theorem Instr.operand_unassigned13 (operand : Nibble) : (Instr.unassigned13 operand).operand = operand := rfl
@[simp] theorem Instr.operand_hlt (operand : Nibble) : (Instr.hlt operand).operand = operand := rfl
@[simp] theorem Instr.operand_out (operand : Nibble) : (Instr.out operand).operand = operand := rfl

/-- A nibble used as an address keeps its value (30_encoding.md R81). -/
theorem toNat_setWidth_nibble (p : Nibble) : (p.setWidth 8 : Byte).toNat = p.toNat := by
  have := p.isLt
  rw [BitVec.toNat_setWidth]
  omega

end Sys2Proof
end

