-- ==== Sys2Proof/Laws/Ops.lean ====
section
/-! SUPPORT. One lemma per shared operation: once and for all, what it can answer. -/

namespace Sys2Proof.Machine

/-- A read is performed exactly when the address exists. -/
theorem State.memRead_eq_some_iff (s : State) (addr : Nat) (byte : Byte) :
    s.memRead addr = some byte ↔ addr < s.memSize ∧ Memory.read s.mem addr = byte := by
  unfold State.memRead
  split <;> simp_all

theorem State.memRead_inside (s : State) {addr : Nat} (h : addr < s.memSize) :
    s.memRead addr = some (Memory.read s.mem addr) := if_pos h

theorem State.memRead_outside (s : State) {addr : Nat} (h : s.memSize ≤ addr) : s.memRead addr = none :=
  if_neg (by omega)

theorem State.memWrite_inside (s : State) {addr : Nat} (byte : Byte) (h : addr < s.memSize) :
    s.memWrite addr byte = some (s.storeByte addr byte) := if_pos h

theorem State.memWrite_outside (s : State) {addr : Nat} (byte : Byte) (h : s.memSize ≤ addr) :
    s.memWrite addr byte = none := if_neg (by omega)

/-- A write is performed exactly when the address exists, and changes the memory only. -/
theorem State.memWrite_eq_some_iff (s t : State) (addr : Nat) (byte : Byte) :
    s.memWrite addr byte = some t ↔ addr < s.memSize ∧ t = s.storeByte addr byte := by
  unfold State.memWrite
  split <;> simp_all [eq_comm]

/-- The range check raises, with the PC as the address, exactly when the machine is not halted and PC is outside memory. -/
theorem State.rangeCheck_cases (s : State) (kind : FaultKind) :
    (s.halted = false ∧ s.memSize ≤ s.PC.toNat ∧ s.rangeCheck kind = s.raise kind s.PC) ∨
    ((s.halted = true ∨ s.PC.toNat < s.memSize) ∧ s.rangeCheck kind = s) := by
  unfold State.rangeCheck
  by_cases hh : s.halted = false
  · by_cases hp : s.memSize ≤ s.PC.toNat
    · exact .inl ⟨hh, hp, if_pos ⟨hh, hp⟩⟩
    · exact .inr ⟨.inr (by omega), if_neg fun h => hp h.2⟩
  · exact .inr ⟨.inl (by simpa using hh), if_neg fun h => hh h.1⟩

theorem State.rangeCheck_of_inside (s : State) (kind : FaultKind) (h : s.PC.toNat < s.memSize) : s.rangeCheck kind = s :=
  if_neg fun hc => by omega

theorem State.rangeCheck_of_halted (s : State) (kind : FaultKind) (h : s.halted = true) : s.rangeCheck kind = s :=
  if_neg fun hc => by simp [h] at hc

theorem State.rangeCheck_of_outside (s : State) (kind : FaultKind) (hh : s.halted = false) (hp : s.memSize ≤ s.PC.toNat) :
    s.rangeCheck kind = s.raise kind s.PC := if_pos ⟨hh, hp⟩

/-- The range check writes the fault and nothing else. -/
theorem State.rangeCheck_eq (s : State) (kind : FaultKind) :
    ∃ f, s.rangeCheck kind = { s with fault := f } := by
  obtain ⟨-, -, h⟩ | ⟨-, h⟩ := s.rangeCheck_cases kind
  · exact ⟨_, h⟩
  · exact ⟨s.fault, h⟩

/-! What the range check leaves alone: every field but the fault. -/

@[simp] theorem State.rangeCheck_A (s : State) (kind : FaultKind) : (s.rangeCheck kind).A = s.A := by
  obtain ⟨f, hf⟩ := s.rangeCheck_eq kind
  rw [hf]

@[simp] theorem State.rangeCheck_B (s : State) (kind : FaultKind) : (s.rangeCheck kind).B = s.B := by
  obtain ⟨f, hf⟩ := s.rangeCheck_eq kind
  rw [hf]

@[simp] theorem State.rangeCheck_PC (s : State) (kind : FaultKind) : (s.rangeCheck kind).PC = s.PC := by
  obtain ⟨f, hf⟩ := s.rangeCheck_eq kind
  rw [hf]

@[simp] theorem State.rangeCheck_Ir (s : State) (kind : FaultKind) : (s.rangeCheck kind).Ir = s.Ir := by
  obtain ⟨f, hf⟩ := s.rangeCheck_eq kind
  rw [hf]

@[simp] theorem State.rangeCheck_Or (s : State) (kind : FaultKind) : (s.rangeCheck kind).Or = s.Or := by
  obtain ⟨f, hf⟩ := s.rangeCheck_eq kind
  rw [hf]

@[simp] theorem State.rangeCheck_zero (s : State) (kind : FaultKind) : (s.rangeCheck kind).zero = s.zero := by
  obtain ⟨f, hf⟩ := s.rangeCheck_eq kind
  rw [hf]

@[simp] theorem State.rangeCheck_carry (s : State) (kind : FaultKind) : (s.rangeCheck kind).carry = s.carry := by
  obtain ⟨f, hf⟩ := s.rangeCheck_eq kind
  rw [hf]

@[simp] theorem State.rangeCheck_halted (s : State) (kind : FaultKind) : (s.rangeCheck kind).halted = s.halted := by
  obtain ⟨f, hf⟩ := s.rangeCheck_eq kind
  rw [hf]

@[simp] theorem State.rangeCheck_mem (s : State) (kind : FaultKind) : (s.rangeCheck kind).mem = s.mem := by
  obtain ⟨f, hf⟩ := s.rangeCheck_eq kind
  rw [hf]

@[simp] theorem State.rangeCheck_out (s : State) (kind : FaultKind) : (s.rangeCheck kind).out = s.out := by
  obtain ⟨f, hf⟩ := s.rangeCheck_eq kind
  rw [hf]

@[simp] theorem State.rangeCheck_diag (s : State) (kind : FaultKind) : (s.rangeCheck kind).diag = s.diag := by
  obtain ⟨f, hf⟩ := s.rangeCheck_eq kind
  rw [hf]

@[simp] theorem State.rangeCheck_steps (s : State) (kind : FaultKind) : (s.rangeCheck kind).steps = s.steps := by
  obtain ⟨f, hf⟩ := s.rangeCheck_eq kind
  rw [hf]

@[simp] theorem State.rangeCheck_memSize (s : State) (kind : FaultKind) : (s.rangeCheck kind).memSize = s.memSize := by
  obtain ⟨f, hf⟩ := s.rangeCheck_eq kind
  rw [hf]

/-- What a load's arm can answer: the register write and the range check, or a data fault. -/
theorem loadArm_cases (operand : Nibble) (put : State → Byte → State) (s : State) :
    (operand.toNat < s.memSize ∧
      loadArm operand put s = .next ((put s (Memory.read s.mem operand.toNat)).rangeCheck .runoff)) ∨
    (s.memSize ≤ operand.toNat ∧ loadArm operand put s = .next (s.raise .data (operand.setWidth 8))) := by
  unfold loadArm dataAddress
  by_cases h : operand.toNat < s.memSize
  · exact .inl ⟨h, by rw [State.memRead_inside s h]; rfl⟩
  · exact .inr ⟨by omega, by rw [State.memRead_outside s (by omega)]; rfl⟩

/-- What a store's arm can answer: the write of one cell and the range check, or a data fault. -/
theorem storeArm_cases (operand : Nibble) (byte : Byte) (s : State) :
    (operand.toNat < s.memSize ∧
      storeArm operand byte s = .next ((s.storeByte operand.toNat byte).rangeCheck .runoff)) ∨
    (s.memSize ≤ operand.toNat ∧ storeArm operand byte s = .next (s.raise .data (operand.setWidth 8))) := by
  unfold storeArm dataAddress
  by_cases h : operand.toNat < s.memSize
  · exact .inl ⟨h, by rw [State.memWrite_inside s byte h]; rfl⟩
  · exact .inr ⟨by omega, by rw [State.memWrite_outside s byte (by omega)]; rfl⟩

/-- What a jump's arm can answer. -/
theorem jumpArm_cases (taken : Bool) (operand : Nibble) (s : State) :
    (taken = true ∧ jumpArm taken operand s = .next ((s.setPC (operand.setWidth 8)).rangeCheck .jump)) ∨
    (taken = false ∧ jumpArm taken operand s = .next (s.rangeCheck .runoff)) := by
  cases taken
  · exact .inr ⟨rfl, rfl⟩
  · exact .inl ⟨rfl, rfl⟩

/-- When the machine is stopped, and with what. -/
theorem State.stopped_eq_none_iff (s : State) : s.stopped = none ↔ s.halted = false ∧ s.fault = none := by
  unfold State.stopped
  cases s.fault <;> cases s.halted <;> simp

/-- A step that answers a next state ran the decoded instruction of a RUNNING state with its PC inside memory. -/
theorem step_eq_next {s t : State} (h : step s = .next t) :
    s.halted = false ∧ s.fault = none ∧ s.PC.toNat < s.memSize ∧
      exec (decode (Memory.read s.mem s.PC.toNat)) s = .next t := by
  unfold step State.fetch at h
  split at h
  · cases h
  · rename_i hstop
    obtain ⟨hh, hf⟩ := (State.stopped_eq_none_iff s).1 hstop
    split at h
    · rename_i byte hbyte
      obtain ⟨hp, rfl⟩ := (State.memRead_eq_some_iff s _ byte).1 hbyte
      exact ⟨hh, hf, hp, h⟩
    · cases h

end Sys2Proof.Machine
end

