-- ==== Sys2Proof/Laws/Exec.lean ====
section
/-! SUPPORT. What each meaning answers, in one equation over the state's named updates: every instruction answers a next state. -/

namespace Sys2Proof.Machine

/-- LDA and LDB have this shape. -/
theorem loadArm_eq (operand : Nibble) (put : State → Byte → State) (s : State) :
    loadArm operand put s = .next (if operand.toNat < s.memSize
      then (put s (Memory.read s.mem operand.toNat)).rangeCheck .runoff
      else s.raise .data (operand.setWidth 8)) := by
  obtain ⟨h, heq⟩ | ⟨h, heq⟩ := loadArm_cases operand put s
  · rw [heq, if_pos h]
  · rw [heq, if_neg (by omega)]

/-- STA and STB have this shape. -/
theorem storeArm_eq (operand : Nibble) (byte : Byte) (s : State) :
    storeArm operand byte s = .next (if operand.toNat < s.memSize
      then (s.storeByte operand.toNat byte).rangeCheck .runoff
      else s.raise .data (operand.setWidth 8)) := by
  obtain ⟨h, heq⟩ | ⟨h, heq⟩ := storeArm_cases operand byte s
  · rw [heq, if_pos h]
  · rw [heq, if_neg (by omega)]

/-- JMP, JNZ and JNC have this shape. -/
theorem jumpArm_eq (taken : Bool) (operand : Nibble) (s : State) :
    jumpArm taken operand s = .next (if taken = true
      then (s.setPC (operand.setWidth 8)).rangeCheck .jump else s.rangeCheck .runoff) := by
  cases taken <;> rfl

theorem execNop_eq (operand : Nibble) (s : State) :
    exec (.nop operand) s = .next ((s.beginStep (.nop operand)).rangeCheck .runoff) := rfl

theorem execLda_eq (addr : Nibble) (s : State) :
    exec (.lda addr) s = .next (if addr.toNat < s.memSize
      then ((s.beginStep (.lda addr)).setA (Memory.read s.mem addr.toNat)).rangeCheck .runoff
      else (s.beginStep (.lda addr)).raise .data (addr.setWidth 8)) :=
  loadArm_eq addr State.setA (s.beginStep (.lda addr))

theorem execLdb_eq (addr : Nibble) (s : State) :
    exec (.ldb addr) s = .next (if addr.toNat < s.memSize
      then ((s.beginStep (.ldb addr)).setB (Memory.read s.mem addr.toNat)).rangeCheck .runoff
      else (s.beginStep (.ldb addr)).raise .data (addr.setWidth 8)) :=
  loadArm_eq addr State.setB (s.beginStep (.ldb addr))

theorem execSta_eq (addr : Nibble) (s : State) :
    exec (.sta addr) s = .next (if addr.toNat < s.memSize
      then ((s.beginStep (.sta addr)).storeByte addr.toNat s.A).rangeCheck .runoff
      else (s.beginStep (.sta addr)).raise .data (addr.setWidth 8)) :=
  storeArm_eq addr s.A (s.beginStep (.sta addr))

theorem execStb_eq (addr : Nibble) (s : State) :
    exec (.stb addr) s = .next (if addr.toNat < s.memSize
      then ((s.beginStep (.stb addr)).storeByte addr.toNat s.B).rangeCheck .runoff
      else (s.beginStep (.stb addr)).raise .data (addr.setWidth 8)) :=
  storeArm_eq addr s.B (s.beginStep (.stb addr))

theorem execAdd_eq (operand : Nibble) (s : State) :
    exec (.add operand) s =
      .next (((s.beginStep (.add operand)).setAlu (aluApply .add s.A s.B)).rangeCheck .runoff) := rfl

theorem execSub_eq (operand : Nibble) (s : State) :
    exec (.sub operand) s =
      .next (((s.beginStep (.sub operand)).setAlu (aluApply .sub s.A s.B)).rangeCheck .runoff) := rfl

theorem execJmp_eq (target : Nibble) (s : State) :
    exec (.jmp target) s =
      .next (((s.beginStep (.jmp target)).setPC (target.setWidth 8)).rangeCheck .jump) := rfl

theorem execJnz_eq (target : Nibble) (s : State) :
    exec (.jnz target) s = .next (if s.zero = false
      then ((s.beginStep (.jnz target)).setPC (target.setWidth 8)).rangeCheck .jump
      else (s.beginStep (.jnz target)).rangeCheck .runoff) := by
  refine (jumpArm_eq (!s.zero) target (s.beginStep (.jnz target))).trans ?_
  cases s.zero <;> rfl

theorem execJnc_eq (target : Nibble) (s : State) :
    exec (.jnc target) s = .next (if s.carry = false
      then ((s.beginStep (.jnc target)).setPC (target.setWidth 8)).rangeCheck .jump
      else (s.beginStep (.jnc target)).rangeCheck .runoff) := by
  refine (jumpArm_eq (!s.carry) target (s.beginStep (.jnc target))).trans ?_
  cases s.carry <;> rfl

theorem execUnassigned10_eq (operand : Nibble) (s : State) :
    exec (.unassigned10 operand) s = .next
      (((s.beginStep (.unassigned10 operand)).report s.PC (packByte 10 operand)).rangeCheck .runoff) := rfl

theorem execUnassigned11_eq (operand : Nibble) (s : State) :
    exec (.unassigned11 operand) s = .next
      (((s.beginStep (.unassigned11 operand)).report s.PC (packByte 11 operand)).rangeCheck .runoff) := rfl

theorem execUnassigned12_eq (operand : Nibble) (s : State) :
    exec (.unassigned12 operand) s = .next
      (((s.beginStep (.unassigned12 operand)).report s.PC (packByte 12 operand)).rangeCheck .runoff) := rfl

theorem execUnassigned13_eq (operand : Nibble) (s : State) :
    exec (.unassigned13 operand) s = .next
      (((s.beginStep (.unassigned13 operand)).report s.PC (packByte 13 operand)).rangeCheck .runoff) := rfl

theorem execHlt_eq (operand : Nibble) (s : State) :
    exec (.hlt operand) s = .next (s.beginStep (.hlt operand)).halt :=
  congrArg Host.Outcome.next (State.rangeCheck_of_halted _ _ rfl)

theorem execOut_eq (operand : Nibble) (s : State) :
    exec (.out operand) s = .next (((s.beginStep (.out operand)).emit s.A).rangeCheck .runoff) := rfl

end Sys2Proof.Machine
end

