-- ==== Sys2Proof/Laws/PerInstr.lean ====
section
/-! SUPPORT. Families of facts about the instructions as syntax, one lemma per constructor. -/

namespace Sys2Proof.Laws

/-- Packing two nibbles and taking the fields apart again gives them back (30_encoding.md R80, R83). -/
theorem fields_packByte : ∀ opcode operand : Nibble,
    opcodeField (packByte opcode operand) = opcode ∧ operandField (packByte opcode operand) = operand := by
  decide

/-- The fields of an instruction's byte are its opcode and its operand. -/
def EncodedFields.Statement (i : Instr) : Prop :=
  opcodeField (encode i) = i.opcode ∧ operandField (encode i) = i.operand

theorem EncodedFields.nop (operand : Nibble) : EncodedFields.Statement (.nop operand) := fields_packByte _ _
theorem EncodedFields.lda (addr : Nibble) : EncodedFields.Statement (.lda addr) := fields_packByte _ _
theorem EncodedFields.sta (addr : Nibble) : EncodedFields.Statement (.sta addr) := fields_packByte _ _
theorem EncodedFields.ldb (addr : Nibble) : EncodedFields.Statement (.ldb addr) := fields_packByte _ _
theorem EncodedFields.stb (addr : Nibble) : EncodedFields.Statement (.stb addr) := fields_packByte _ _
theorem EncodedFields.add (operand : Nibble) : EncodedFields.Statement (.add operand) := fields_packByte _ _
theorem EncodedFields.sub (operand : Nibble) : EncodedFields.Statement (.sub operand) := fields_packByte _ _
theorem EncodedFields.jmp (target : Nibble) : EncodedFields.Statement (.jmp target) := fields_packByte _ _
theorem EncodedFields.jnz (target : Nibble) : EncodedFields.Statement (.jnz target) := fields_packByte _ _
theorem EncodedFields.jnc (target : Nibble) : EncodedFields.Statement (.jnc target) := fields_packByte _ _
theorem EncodedFields.unassigned10 (operand : Nibble) : EncodedFields.Statement (.unassigned10 operand) := fields_packByte _ _
theorem EncodedFields.unassigned11 (operand : Nibble) : EncodedFields.Statement (.unassigned11 operand) := fields_packByte _ _
theorem EncodedFields.unassigned12 (operand : Nibble) : EncodedFields.Statement (.unassigned12 operand) := fields_packByte _ _
theorem EncodedFields.unassigned13 (operand : Nibble) : EncodedFields.Statement (.unassigned13 operand) := fields_packByte _ _
theorem EncodedFields.hlt (operand : Nibble) : EncodedFields.Statement (.hlt operand) := fields_packByte _ _
theorem EncodedFields.out (operand : Nibble) : EncodedFields.Statement (.out operand) := fields_packByte _ _

/-- A canonical instruction that does not use its operand has operand 0, and one that uses it is always canonical
(30_encoding.md R88). -/
def CanonicalOperand.Statement (i : Instr) : Prop :=
  i.wellFormed = true ↔ (i.usesOperand = true ∨ i.operand = 0)

theorem CanonicalOperand.nop (operand : Nibble) : CanonicalOperand.Statement (.nop operand) := by
  simp [CanonicalOperand.Statement, Instr.wellFormed, Instr.usesOperand, Instr.operand]
theorem CanonicalOperand.lda (addr : Nibble) : CanonicalOperand.Statement (.lda addr) := by
  simp [CanonicalOperand.Statement, Instr.wellFormed, Instr.usesOperand, Instr.operand]
theorem CanonicalOperand.sta (addr : Nibble) : CanonicalOperand.Statement (.sta addr) := by
  simp [CanonicalOperand.Statement, Instr.wellFormed, Instr.usesOperand, Instr.operand]
theorem CanonicalOperand.ldb (addr : Nibble) : CanonicalOperand.Statement (.ldb addr) := by
  simp [CanonicalOperand.Statement, Instr.wellFormed, Instr.usesOperand, Instr.operand]
theorem CanonicalOperand.stb (addr : Nibble) : CanonicalOperand.Statement (.stb addr) := by
  simp [CanonicalOperand.Statement, Instr.wellFormed, Instr.usesOperand, Instr.operand]
theorem CanonicalOperand.add (operand : Nibble) : CanonicalOperand.Statement (.add operand) := by
  simp [CanonicalOperand.Statement, Instr.wellFormed, Instr.usesOperand, Instr.operand]
theorem CanonicalOperand.sub (operand : Nibble) : CanonicalOperand.Statement (.sub operand) := by
  simp [CanonicalOperand.Statement, Instr.wellFormed, Instr.usesOperand, Instr.operand]
theorem CanonicalOperand.jmp (target : Nibble) : CanonicalOperand.Statement (.jmp target) := by
  simp [CanonicalOperand.Statement, Instr.wellFormed, Instr.usesOperand, Instr.operand]
theorem CanonicalOperand.jnz (target : Nibble) : CanonicalOperand.Statement (.jnz target) := by
  simp [CanonicalOperand.Statement, Instr.wellFormed, Instr.usesOperand, Instr.operand]
theorem CanonicalOperand.jnc (target : Nibble) : CanonicalOperand.Statement (.jnc target) := by
  simp [CanonicalOperand.Statement, Instr.wellFormed, Instr.usesOperand, Instr.operand]
theorem CanonicalOperand.unassigned10 (operand : Nibble) : CanonicalOperand.Statement (.unassigned10 operand) := by
  simp [CanonicalOperand.Statement, Instr.wellFormed, Instr.usesOperand, Instr.operand]
theorem CanonicalOperand.unassigned11 (operand : Nibble) : CanonicalOperand.Statement (.unassigned11 operand) := by
  simp [CanonicalOperand.Statement, Instr.wellFormed, Instr.usesOperand, Instr.operand]
theorem CanonicalOperand.unassigned12 (operand : Nibble) : CanonicalOperand.Statement (.unassigned12 operand) := by
  simp [CanonicalOperand.Statement, Instr.wellFormed, Instr.usesOperand, Instr.operand]
theorem CanonicalOperand.unassigned13 (operand : Nibble) : CanonicalOperand.Statement (.unassigned13 operand) := by
  simp [CanonicalOperand.Statement, Instr.wellFormed, Instr.usesOperand, Instr.operand]
theorem CanonicalOperand.hlt (operand : Nibble) : CanonicalOperand.Statement (.hlt operand) := by
  simp [CanonicalOperand.Statement, Instr.wellFormed, Instr.usesOperand, Instr.operand]
theorem CanonicalOperand.out (operand : Nibble) : CanonicalOperand.Statement (.out operand) := by
  simp [CanonicalOperand.Statement, Instr.wellFormed, Instr.usesOperand, Instr.operand]

end Sys2Proof.Laws
end

