-- ==== Sys2Proof/Tests/Slice0.lean ====
section
/-! SUPPORT. The model's own tests. Expected results come from 95_test_vectors.md (V<n>) and from the examples of the rules; the
witnesses show that the hypotheses of every statement can be met. -/

namespace Sys2Proof.Tests

open Sys2Proof.Machine Sys2Proof.Safety

/-- The next state of an outcome, if it is one. -/
def nextOf (o : Host.Outcome State Fault Refusal) : Option State :=
  match o with
  | .next t => some t
  | .fault _ => none
  | .refused _ => none

/-- The fault of an outcome, if it is one. -/
def faultOf (o : Host.Outcome State Fault Refusal) : Option Fault :=
  match o with
  | .next _ => none
  | .fault f => some f
  | .refused _ => none

/-- A RUNNING state of the reference configuration: A, B, PC, and the cells in rising order. -/
def place (a b pc : Byte) (cells : Memory) : State := { State.reset with A := a, B := b, PC := pc, mem := cells }

/-- The same in a memory of eight cells. -/
def small (pc : Byte) (cells : Memory) : State := { State.reset with PC := pc, mem := cells, memSize := 8 }

/-! ### Well-formedness (30_encoding.md R88): each check refuses a term -/

theorem test_wellFormed_refuses_nop : (Instr.nop 10).wellFormed = false := by decide
theorem test_wellFormed_refuses_add : (Instr.add 15).wellFormed = false := by decide
theorem test_wellFormed_refuses_sub : (Instr.sub 12).wellFormed = false := by decide
theorem test_wellFormed_refuses_hlt : (Instr.hlt 7).wellFormed = false := by decide
theorem test_wellFormed_refuses_out : (Instr.out 3).wellFormed = false := by decide
theorem test_wellFormed_refuses_unassigned10 : (Instr.unassigned10 1).wellFormed = false := by decide
theorem test_wellFormed_refuses_unassigned11 : (Instr.unassigned11 12).wellFormed = false := by decide
theorem test_wellFormed_refuses_unassigned12 : (Instr.unassigned12 5).wellFormed = false := by decide
theorem test_wellFormed_refuses_unassigned13 : (Instr.unassigned13 15).wellFormed = false := by decide
theorem test_wellFormed_accepts_jump : (Instr.jmp 15).wellFormed = true := by decide

/-! ### Decoding: one word of every constructor, written bit by bit from the opcode map (30_encoding.md R84; V8, V12, V13) -/

theorem test_decode_nop : decode 0b00000000 = .nop 0 := by decide
theorem test_decode_lda : decode 0b00010101 = .lda 5 := by decide
theorem test_decode_sta : decode 0b00100011 = .sta 3 := by decide
theorem test_decode_ldb : decode 0b00110110 = .ldb 6 := by decide
theorem test_decode_stb : decode 0b01001110 = .stb 14 := by decide
theorem test_decode_add : decode 0b01010000 = .add 0 := by decide
theorem test_decode_sub : decode 0b01101100 = .sub 12 := by decide
theorem test_decode_jmp : decode 0b01110011 = .jmp 3 := by decide
theorem test_decode_jnz : decode 0b10000000 = .jnz 0 := by decide
theorem test_decode_jnc : decode 0b10010010 = .jnc 2 := by decide
theorem test_decode_unassigned10 : decode 0b10100000 = .unassigned10 0 := by decide
theorem test_decode_unassigned11 : decode 0b10111100 = .unassigned11 12 := by decide
theorem test_decode_unassigned12 : decode 0b11000101 = .unassigned12 5 := by decide
theorem test_decode_unassigned13 : decode 0b11011111 = .unassigned13 15 := by decide
theorem test_decode_hlt : decode 0b11100111 = .hlt 7 := by decide
theorem test_decode_out : decode 0b11110011 = .out 3 := by decide
theorem test_decode_refuses_no_byte :
    (match decodeBytes [] with | .ok _ => none | .error e => some e) = some DecodeError.noByte := by decide
theorem test_decodeTableWord_lda : decodeTableWord 8 0x15 = some (.lda 5) := by decide
theorem test_decodeTableWord_wider : decodeTableWord 16 0x15 = none := by decide
theorem test_encode_stb : encode (.stb 13) = 0x4D := by decide

/-! ### Loads and stores (V45 to V48, V84, V87) -/

theorem test_lda : (nextOf (step (place 0 0 0 [(0, 0x15), (5, 0x0A)]))).map
    (fun t => (t.A, t.B, t.PC, t.Ir, t.Or, t.steps)) = some (0x0A, 0, 1, 1, 5, 1) := by decide

theorem test_ldb : (nextOf (step (place 0x0A 0 1 [(1, 0x36), (6, 0x14)]))).map
    (fun t => (t.A, t.B, t.PC, t.Ir, t.Or)) = some (0x0A, 0x14, 2, 3, 6) := by decide

theorem test_sta : (nextOf (step (place 0xE0 0 1 [(1, 0x23), (3, 0x73)]))).map
    (fun t => (t.mem, t.A, t.PC)) = some ([(1, 0x23), (3, 0xE0)], 0xE0, 2) := by decide

theorem test_stb : (nextOf (step { place 0x60 0x20 4 [(4, 0x4D)] with carry := true })).map
    (fun t => (t.mem, t.B, t.Or, t.carry)) = some ([(4, 0x4D), (13, 0x20)], 0x20, 13, true) := by decide

/-- Storing 0 removes the cell from the list: the canonical form. -/
theorem test_stb_zero : (nextOf (step (place 0 0 0 [(0, 0x49), (9, 0xFF)]))).map (fun t => t.mem) =
    some [(0, 0x49)] := by decide

/-- V84. -/
theorem test_lda_outside : (nextOf (step (small 0 [(0, 0x19), (1, 0xE0)]))).map
    (fun t => (t.fault, t.A, t.PC, t.Or, t.steps)) = some (some ⟨.data, 9⟩, 0, 1, 9, 1) := by decide

/-- V87: the store is done and then the machine runs off. -/
theorem test_sta_runs_off : (nextOf (step (small 7 [(0, 0x11), (7, 0x20)]))).map
    (fun t => (t.fault, t.mem, t.PC)) = some (some ⟨.runoff, 8⟩, [(7, 0x20)], 8) := by decide

/-! ### ALU, ADD and SUB (V21, V22, V31, V35, V42) -/

theorem test_alu_add_wraps : aluApply .add 0xFF 0x01 = { newB := 0x00, zero := true, carry := true } := by decide
theorem test_alu_add_carry : aluApply .add 0xFF 0xFF = { newB := 0xFE, zero := false, carry := true } := by decide
theorem test_alu_sub_borrow : aluApply .sub 0x05 0x0A = { newB := 0xFB, zero := false, carry := true } := by decide
theorem test_alu_sub_far : aluApply .sub 0x00 0xFF = { newB := 0x01, zero := false, carry := true } := by decide
theorem test_alu_hardware : aluHardware .sub 0x7F 0x80 = { newB := 0xFF, zero := false, carry := true } := by decide

/-- V42: the old flags do not enter. -/
theorem test_add : (nextOf (step { place 1 1 0 [(0, 0x50)] with zero := true, carry := true })).map
    (fun t => (t.A, t.B, t.zero, t.carry, t.PC)) = some (1, 2, false, false, 1) := by decide

/-- V14: a non-canonical ADD latches its nibble. -/
theorem test_add_noncanonical : (nextOf (step (place 0x0A 0x14 2 [(2, 0x5F)]))).map
    (fun t => (t.B, t.Ir, t.Or)) = some (0x1E, 5, 15) := by decide

/-- A minus B, not B minus A (42_alu.md R144). -/
theorem test_sub : (nextOf (step (place 3 1 0 [(0, 0x60)]))).map
    (fun t => (t.A, t.B, t.zero, t.carry)) = some (3, 2, false, false) := by decide

theorem test_sub_borrows : (nextOf (step (place 5 0x0A 0 [(0, 0x60)]))).map
    (fun t => (t.B, t.zero, t.carry)) = some (0xFB, false, true) := by decide

/-! ### Control transfer (V60 to V63, V67, V86) -/

/-- V67: a jump at the last address does not run off. -/
theorem test_jmp_at_last : (nextOf (step (place 0 0 15 [(15, 0x70)]))).map
    (fun t => (t.PC, t.fault)) = some (0, none) := by decide

/-- A jump at the last address to `MEM_SIZE` itself is a `jump` fault, not a run-off (40_step_cycle.md R115). -/
theorem test_jmp_to_size_at_last : (nextOf (step (small 7 [(7, 0x78)]))).map
    (fun t => (t.PC, t.fault)) = some (8, some ⟨.jump, 8⟩) := by decide

theorem test_jnz_taken : (nextOf (step (place 0 0 4 [(4, 0x80)]))).map (fun t => t.PC) = some 0 := by decide

/-- V61, V86: not taken, and the target is then not used. -/
theorem test_jnz_untaken_outside : (nextOf (step { small 1 [(1, 0x8C)] with zero := true })).map
    (fun t => (t.PC, t.fault)) = some (2, none) := by decide

theorem test_jnc_taken : (nextOf (step { place 0 0 3 [(3, 0x92)] with zero := true })).map (fun t => t.PC) = some 2 := by
  decide
theorem test_jnc_untaken : (nextOf (step { place 0 0 3 [(3, 0x92)] with carry := true })).map (fun t => t.PC) =
    some 4 := by decide

/-! ### NOP, HLT, OUT, unassigned opcodes (V70 to V78, V88) -/

theorem test_nop : nextOf (step (place 0 0 7 [])) = some { place 0 0 8 [] with steps := 1 } := by decide

/-- The last step of V80. -/
theorem test_nop_runs_off : (nextOf (step (place 0 0 15 []))).map (fun t => (t.PC, t.fault)) =
    some (16, some ⟨.runoff, 16⟩) := by decide

/-- V72: HLT at the last address does not fault. -/
theorem test_hlt_at_last : (nextOf (step (place 0 0 15 [(15, 0xE0)]))).map
    (fun t => (t.PC, t.halted, t.fault, t.Ir)) = some (16, true, none, 14) := by decide

/-- V78. -/
theorem test_halted_has_no_step : faultOf (step { place 0 0 5 [] with halted := true }) = some .machineHalted := by decide
theorem test_faulted_has_no_step :
    faultOf (step { place 0 0 16 [] with fault := some ⟨.runoff, 16⟩ }) = some (.machineFaulted .runoff 16) := by decide

/-- The fourth step of P1: OUT emits A, not B (90_conflicts.md C7). -/
theorem test_out : (nextOf (step (place 0x0A 0x1E 3 [(3, 0xF0)]))).map (fun t => (t.out, t.PC)) = some ([0x0A], 4) := by
  decide

/-- V74: in program order. -/
theorem test_out_appends : (nextOf (step { place 0 0 0 [(0, 0xF0)] with out := [30] })).map (fun t => t.out) =
    some [30, 0] := by decide

theorem test_unassigned10 : (nextOf (step (place 0 0 2 [(2, 0xA0)]))).map
    (fun t => (t.PC, t.Ir, t.Or, t.diag, t.out)) = some (3, 10, 0, [⟨2, 0xA0⟩], []) := by decide

/-- The second step of V88: the report is made first, then the run-off. -/
theorem test_unassigned11_runs_off : (nextOf (step (place 0 0 15 [(15, 0xBC)]))).map
    (fun t => (t.diag, t.fault, t.Ir, t.Or)) = some ([⟨15, 0xBC⟩], some ⟨.runoff, 16⟩, 11, 12) := by decide

theorem test_unassigned12 : (nextOf (step (place 1 2 6 [(6, 0xC5)]))).map
    (fun t => (t.A, t.B, t.Ir, t.diag)) = some (1, 2, 12, [⟨6, 0xC5⟩]) := by decide
theorem test_unassigned13 : (nextOf (step (place 0 0 6 [(6, 0xDF)]))).map
    (fun t => (t.PC, t.Ir, t.Or, t.diag)) = some (7, 13, 15, [⟨6, 0xDF⟩]) := by decide

/-! ### Reset, the run controller, the host's loading of a byte -/

theorem test_reset_memory_canonical : Memory.wf State.reset.mem = true := by decide

/-- V90: no step is taken. -/
theorem test_run_zero : run 2 0 [0xE0, 0] = resetWith 2 [0xE0, 0] := by decide

/-- V91, shortened to its last step: Halted, not StepLimitReached. -/
theorem test_run_halts_at_bound : (run 2 1 [0xE0, 0]).map endCause = some .halted := by decide
theorem test_run_limit : (run 2 1 [0x70, 0]).map (fun s => (endCause s, s.steps)) = some (.stepLimitReached, 1) := by
  decide
theorem test_run_faults_at_bound : (run 1 1 [0x00]).map endCause = some (.faulted ⟨.runoff, 1⟩) := by decide
theorem test_runResult_of_fault : (run 1 1 [0x00]).map (fun s => match runResult s with
    | .ok r => some r.stepsExecuted
    | .error _ => none) = some none := by decide
theorem test_runResult_of_halt : (run 2 1 [0xE0, 7]).map (fun s => match runResult s with
    | .ok r => some (r.PC, r.Ir, r.stepsExecuted, r.finalMemory)
    | .error _ => none) = some (some (1, 14, 1, [0xE0, 7])) := by decide
theorem test_withFetchWord : (nextOf (step (State.reset.withFetchWord 8 0xE0))).map (fun t => (t.halted, t.Ir)) =
    some (true, 14) := by decide

/-! ### The assembler (V10, V11, V15) -/

/-- The image of an assembly, if it succeeds. -/
def imageOf (r : Except AsmError (List Byte)) : Option (List Byte) :=
  match r with
  | .ok bytes => some bytes
  | .error _ => none

/-- V10, in six cells. -/
theorem test_assemble_scenario : imageOf (assemble [['l', 'd', 'a', ' ', '5'], ['l', 'd', 'b', ' ', '6'],
    ['a', 'd', 'd', ' ', '0'], ['o', 'u', 't', ' ', '0'], ['h', 'l', 't', ' ', '0']] 6) =
    some [0x15, 0x36, 0x50, 0xF0, 0xE0, 0] := by decide
theorem test_assemble_rejects_sixteen : imageOf (assemble [['l', 'd', 'a', ' ', '1', '6']] 1) = none := by decide
theorem test_assemble_fallback : imageOf (assemble [['f', 'o', 'o', ' ', '7']] 1) = some [0x07] := by decide
theorem test_assemble_drops_extra : imageOf (assemble [['n', 'o', 'p', ' ', '1'], []] 1) = some [0x01] := by decide

/-! ### Witnesses: the hypotheses of the statements can be met, at the boundary where there is one -/

theorem ready_reset : Ready State.reset := ⟨rfl, rfl, by decide⟩
theorem ready_last : Ready (place 0 0 15 []) := ⟨rfl, rfl, by decide⟩
theorem readyBeforeLast_edge : ReadyBeforeLast (place 0 0 14 []) := ⟨rfl, rfl, by decide⟩
theorem readyAtLast_edge : ReadyAtLast (place 0 0 15 []) := ⟨rfl, rfl, rfl, by decide⟩

theorem witness_DecodeSplitsAndLatches : ∃ s, Ready s := ⟨_, ready_last⟩
theorem witness_StepRunsTheDecodedInstruction :
    ∃ (s : State) (i : Instr), Ready s ∧ decode (Memory.read s.mem s.PC.toNat) = i := ⟨_, _, ready_last, rfl⟩
theorem witness_StoppedMachineSaysWhy_faulted : ∃ (s : State) (r : OutOfBoundsAddress), s.fault = some r :=
  ⟨{ State.reset with fault := some ⟨.data, 9⟩ }, _, rfl⟩
theorem witness_StoppedMachineSaysWhy_halted : ∃ s : State, s.halted = true ∧ s.fault = none :=
  ⟨{ State.reset with halted := true }, rfl, rfl⟩
theorem witness_EveryStepCountsAndKeepsSize : ∃ s t, step s = .next t := ⟨State.reset, _, rfl⟩
theorem witness_WhereThePCGoes_taken : ∃ s t, step s = .next t ∧ t.Ir = 8 ∧ s.zero = false ∧ s.memSize ≤ 255 :=
  ⟨place 0 0 15 [(15, 0x8F)], _, rfl, by decide, rfl, by decide⟩
theorem witness_WhereThePCGoes_sequential : ∃ s t, step s = .next t ∧ t.Ir = 9 ∧ s.carry = true ∧ s.memSize ≤ 255 :=
  ⟨{ place 0 0 15 [(15, 0x9F)] with carry := true, memSize := 255 }, _, rfl, by decide, rfl, by decide⟩
theorem witness_LoadsWriteTheRegister : ∃ (addr : Nibble) (s : State), ReadyBeforeLast s ∧ addr.toNat < s.memSize :=
  ⟨15, _, readyBeforeLast_edge, by decide⟩
theorem witness_StoresWriteTheCell : ∃ (addr : Nibble) (s : State), ReadyBeforeLast s ∧ addr.toNat < s.memSize :=
  ⟨0, _, readyBeforeLast_edge, by decide⟩
theorem witness_StoredByteReadsBack :
    ∃ (addr : Nibble) (s : State), Ready s ∧ addr.toNat < s.memSize ∧ Memory.wf s.mem = true :=
  ⟨15, place 1 2 15 [(15, 0x2F)], ⟨rfl, rfl, by decide⟩, by decide, by decide⟩
theorem witness_AddAndSubWriteB : ∃ s, ReadyBeforeLast s := ⟨_, readyBeforeLast_edge⟩
theorem witness_TakenJumpsSetPC : ∃ (target : Nibble) (s : State),
    Ready s ∧ target.toNat < s.memSize ∧ s.zero = false ∧ s.carry = false := ⟨15, _, ready_last, by decide, rfl, rfl⟩
theorem witness_UntakenJumpsFallThrough : ∃ s, ReadyBeforeLast s ∧ s.zero = true ∧ s.carry = true :=
  ⟨{ small 6 [] with zero := true, carry := true }, ⟨rfl, rfl, by decide⟩, rfl, rfl⟩
theorem witness_NopOnlyAdvances : ∃ s, ReadyBeforeLast s := ⟨State.reset, rfl, rfl, by decide⟩
theorem witness_HltHaltsForEver : ∃ s, Ready s := ⟨_, ready_last⟩
theorem witness_OutEmitsA : ∃ s, ReadyBeforeLast s ∧ s.A = 255 := ⟨place 255 0 14 [], ⟨rfl, rfl, by decide⟩, rfl⟩
theorem witness_UnassignedOpcodesReportAndContinue : ∃ s, ReadyBeforeLast s := ⟨_, readyBeforeLast_edge⟩
theorem witness_RunOffAfterLoadsAndStores : ∃ (addr : Nibble) (s : State), ReadyAtLast s ∧ addr.toNat < s.memSize :=
  ⟨15, _, readyAtLast_edge, by decide⟩
theorem witness_RunOffAfterArithmetic : ∃ s, ReadyAtLast s ∧ s.memSize = 255 :=
  ⟨{ place 0 0 254 [] with memSize := 255 }, ⟨rfl, rfl, rfl, by decide⟩, rfl⟩
theorem witness_RunOffAfterTheOthers : ∃ s, ReadyAtLast s ∧ s.zero = true ∧ s.carry = true :=
  ⟨{ small 7 [] with zero := true, carry := true }, ⟨rfl, rfl, rfl, by decide⟩, rfl, rfl⟩
theorem witness_DataAddressOutsideMemoryFaults : ∃ (addr : Nibble) (s : State), Ready s ∧ s.memSize ≤ addr.toNat :=
  ⟨8, small 7 [], ⟨rfl, rfl, by decide⟩, by decide⟩
theorem witness_TakenJumpOutsideMemoryFaults : ∃ (target : Nibble) (s : State),
    Ready s ∧ s.memSize ≤ target.toNat ∧ s.zero = false ∧ s.carry = false :=
  ⟨8, small 7 [], ⟨rfl, rfl, by decide⟩, by decide, rfl, rfl⟩
theorem witness_FaultTableAndPriority_data : ∃ s t, Config.legalMemSize s.memSize = true ∧ step s = .next t ∧
    t.Ir = 1 ∧ s.memSize ≤ t.Or.toNat := ⟨small 7 [(7, 0x18)], _, by decide, rfl, by decide, by decide⟩
theorem witness_FaultTableAndPriority_hlt : ∃ s t, Config.legalMemSize s.memSize = true ∧ step s = .next t ∧
    t.Ir = 14 ∧ s.PC.toNat + 1 = s.memSize := ⟨small 7 [(7, 0xE8)], _, by decide, rfl, by decide, by decide⟩
theorem witness_FaultTableAndPriority_jump : ∃ s t, Config.legalMemSize s.memSize = true ∧ step s = .next t ∧
    t.Ir = 7 ∧ t.Or.toNat = s.memSize := ⟨small 7 [(7, 0x78)], _, by decide, rfl, by decide, by decide⟩
theorem witness_FaultTableAndPriority_runoff : ∃ s t, Config.legalMemSize s.memSize = true ∧ step s = .next t ∧
    t.Ir = 0 ∧ s.PC.toNat + 1 = s.memSize := ⟨small 7 [], _, by decide, rfl, by decide, by decide⟩
theorem witness_SixteenCellsOnlyRunOff :
    ∃ (s t : State) (r : OutOfBoundsAddress), 16 ≤ s.memSize ∧ step s = .next t ∧ t.fault = some r :=
  ⟨place 0 0 15 [], _, ⟨.runoff, 16⟩, by decide, rfl, by decide⟩
theorem witness_OnlyLdaWritesA : ∃ s t, step s = .next t ∧ t.Ir = 1 ∧ t.Or.toNat < s.memSize :=
  ⟨place 0 0 15 [(15, 0x1F)], _, rfl, by decide, by decide⟩
theorem witness_OnlyLdbAndTheAluWriteB : ∃ s t, step s = .next t ∧ t.Ir = 3 ∧ s.memSize ≤ t.Or.toNat :=
  ⟨small 7 [(7, 0x38)], _, rfl, by decide, by decide⟩
theorem witness_OnlyTheAluWritesFlags_add : ∃ s t, step s = .next t ∧ t.Ir = 5 :=
  ⟨place 255 1 15 [(15, 0x50)], _, rfl, by decide⟩
theorem witness_OnlyTheAluWritesFlags_sub : ∃ s t, step s = .next t ∧ t.Ir = 6 :=
  ⟨place 0 1 15 [(15, 0x60)], _, rfl, by decide⟩
theorem witness_OnlyTheAluWritesFlags_neither : ∃ s t, step s = .next t ∧ t.Ir ≠ 5 ∧ t.Ir ≠ 6 :=
  ⟨State.reset, _, rfl, by decide, by decide⟩
theorem witness_OnlyHltHalts : (∃ s t, step s = .next t ∧ t.Ir = 14) ∧ ∃ s : State, s.halted = true :=
  ⟨⟨place 0 0 15 [(15, 0xE0)], _, rfl, by decide⟩, { State.reset with halted := true }, rfl⟩
theorem witness_OnlyStoresWriteMemory : ∃ (i : Instr) (s t : State) (a : Nat), exec i s = .next t ∧
    ∀ addr : Nibble, i = .sta addr ∨ i = .stb addr → a ≠ dataAddress addr :=
  ⟨.sta 5, State.reset, _, 6, rfl, by decide⟩
theorem witness_OnlyOutAndUnassignedAppend_out : ∃ s t, step s = .next t ∧ t.Ir = 15 :=
  ⟨place 7 0 15 [(15, 0xF0)], _, rfl, by decide⟩
theorem witness_OnlyOutAndUnassignedAppend_report : ∃ s t, step s = .next t ∧ t.Ir = 13 :=
  ⟨place 7 0 15 [(15, 0xDF)], _, rfl, by decide⟩
theorem witness_StoredInstructionExecutesNext_next : ∃ (addr : Nibble) (s : State), Ready s ∧ Memory.wf s.mem = true ∧
    decode (Memory.read s.mem s.PC.toNat) = .sta addr ∧ addr.toNat = s.PC.toNat + 1 ∧ addr.toNat < s.memSize :=
  ⟨15, place 0xE0 0 14 [(14, 0x2F)], ⟨rfl, rfl, by decide⟩, by decide, by decide, by decide, by decide⟩
theorem witness_StoredInstructionExecutesNext_own : ∃ (addr : Nibble) (s : State), Ready s ∧ Memory.wf s.mem = true ∧
    decode (Memory.read s.mem s.PC.toNat) = .sta addr ∧ addr.toNat = s.PC.toNat :=
  ⟨15, place 0xAB 0 15 [(15, 0x2F)], ⟨rfl, rfl, by decide⟩, by decide, by decide, by decide⟩
theorem witness_ResetEstablishesTheInitialState : ∃ (memSize : Nat) (image : List Byte),
    Config.legalMemSize memSize = true ∧ image.length = memSize ∧ 0 < image.length :=
  ⟨1, [0xE0], by decide, rfl, by decide⟩
theorem witness_InvariantAtEveryReset : ∃ (memSize : Nat) (image : List Byte) (s : State),
    resetWith memSize image = some s := ⟨1, [0xE0], _, rfl⟩
theorem witness_StepKeepsInvariant : ∃ s t, Invariant s ∧ step s = .next t :=
  ⟨State.reset, _, ⟨by decide, by decide, by decide, fun _ _ => by decide, nofun, nofun, fun _ => rfl, by decide, nofun⟩, rfl⟩
theorem witness_SafeOperandsNeverFault : ∃ s, ReadyBeforeLast s ∧
    operandInside s.memSize (decode (Memory.read s.mem s.PC.toNat)) = true :=
  ⟨small 6 [(6, 0x77)], ⟨rfl, rfl, by decide⟩, by decide⟩
theorem witness_RunEndsInOneOfThreeWays : ∃ (memSize maxSteps : Nat) (image : List Byte) (s : State),
    run memSize maxSteps image = some s := ⟨1, 1, [0xE0], _, rfl⟩
theorem witness_RunIsIteratedStep : ∃ (memSize maxSteps : Nat) (image : List Byte) (s : State),
    run memSize maxSteps image = some s := ⟨1, 3, [0x70], _, rfl⟩
theorem witness_LargerBoundChangesNothing : ∃ (memSize m n : Nat) (image : List Byte) (s : State),
    m ≤ n ∧ run memSize m image = some s ∧ s.running = false := ⟨1, 1, 2, [0xE0], _, by decide, rfl, by decide⟩
theorem witness_FetchWordIsExecuted : ∃ s, Ready s ∧ Memory.wf s.mem = true ∧ s.PC.toNat + 1 = s.memSize :=
  ⟨place 0 0 15 [], ready_last, by decide, by decide⟩
theorem witness_AssembledImageHasMemSizeBytes : ∃ (lines : List SourceLine) (memSize : Nat) (bytes : List Byte),
    assemble lines memSize = .ok bytes ∧ lines.length < memSize ∧ 0 < lines.length :=
  ⟨[['h', 'l', 't', ' ', '0']], 2, _, rfl, by decide, by decide⟩
theorem witness_LinesBeyondCapacityAreDropped : ∃ (lines : List SourceLine) (memSize : Nat), lines.length = memSize :=
  ⟨[['h', 'l', 't', ' ', '0']], 1, rfl⟩
theorem witness_UnknownMnemonicIsNop : ∃ (line : SourceLine) (mnemonic operand : List Char) (p : Nibble),
    tokens line = [mnemonic, operand] ∧ mnemonic ∉ namedTokens ∧ parseOperand operand = .ok p :=
  ⟨['N', 'O', 'P', ' ', '1', '5'], ['N', 'O', 'P'], ['1', '5'], 15, by decide, by decide, rfl⟩
theorem witness_OperandAboveFifteenIsRejected : ∃ (line : SourceLine) (mnemonic operand : List Char) (n : Nat),
    tokens line = [mnemonic, operand] ∧ decimal operand = some n ∧ 15 < n :=
  ⟨['l', 'd', 'a', ' ', '1', '6'], ['l', 'd', 'a'], ['1', '6'], 16, by decide, by decide, by decide⟩

end Sys2Proof.Tests
end

