-- ==== Sys2Proof/Proofs/Encoding.lean ====
section
/-! PROOFS. The encoding: what decode reads off a byte, what encode packs into one, what every step latches, and the assembler's
fallback for an unknown mnemonic (30_encoding.md). -/

namespace Sys2Proof.Proofs

open Sys2Proof.Machine Sys2Proof.Safety Sys2Proof.Laws

/-! ### The two fields of a byte (30_encoding.md R80, R82) -/

theorem opcodeField_toNat (byte : Byte) : (opcodeField byte).toNat = byte.toNat / 16 := by
  have hbound := byte.isLt
  rw [opcodeField, BitVec.extractLsb'_toNat, Nat.shiftRight_eq_div_pow]
  omega

theorem operandField_toNat (byte : Byte) : (operandField byte).toNat = byte.toNat % 16 := by
  rw [operandField, BitVec.extractLsb'_toNat, Nat.shiftRight_zero]

/-! ### The opcode table read both ways (30_encoding.md R84) -/

/-- The row that an opcode selects is the row of that opcode: sixteen rows, checked one by one. -/
theorem opcode_instrOf : ∀ opcode operand : Nibble, (instrOf opcode operand).opcode = opcode := by
  decide

theorem operand_instrOf (opcode operand : Nibble) : (instrOf opcode operand).operand = operand := by
  unfold instrOf
  split <;> rfl

@[simp] theorem opcode_decode (byte : Byte) : (decode byte).opcode = opcodeField byte := opcode_instrOf _ _

@[simp] theorem operand_decode (byte : Byte) : (decode byte).operand = operandField byte := operand_instrOf _ _

/-! ### What a step latches (40_step_cycle.md R112) -/

/-- Every instruction, in every state, answers a next state whose latches hold its opcode and its operand. -/
theorem exec_latches (i : Instr) (s : State) :
    ∃ t, exec i s = .next t ∧ t.Ir = i.opcode ∧ t.Or = i.operand := by
  cases i with
  | nop p => exact ⟨_, execNop_eq p s, by simp⟩
  | lda p => exact ⟨_, execLda_eq p s, by split <;> simp⟩
  | sta p => exact ⟨_, execSta_eq p s, by split <;> simp⟩
  | ldb p => exact ⟨_, execLdb_eq p s, by split <;> simp⟩
  | stb p => exact ⟨_, execStb_eq p s, by split <;> simp⟩
  | add p => exact ⟨_, execAdd_eq p s, by simp⟩
  | sub p => exact ⟨_, execSub_eq p s, by simp⟩
  | jmp p => exact ⟨_, execJmp_eq p s, by simp⟩
  | jnz p => exact ⟨_, execJnz_eq p s, by split <;> simp⟩
  | jnc p => exact ⟨_, execJnc_eq p s, by split <;> simp⟩
  | unassigned10 p => exact ⟨_, execUnassigned10_eq p s, by simp⟩
  | unassigned11 p => exact ⟨_, execUnassigned11_eq p s, by simp⟩
  | unassigned12 p => exact ⟨_, execUnassigned12_eq p s, by simp⟩
  | unassigned13 p => exact ⟨_, execUnassigned13_eq p s, by simp⟩
  | hlt p => exact ⟨_, execHlt_eq p s, by simp⟩
  | out p => exact ⟨_, execOut_eq p s, by simp⟩

/-- A step from a RUNNING state with its PC inside memory executes the byte at PC: the converse of `step_eq_next`. -/
theorem step_of_ready {s : State} (h : Ready s) :
    step s = exec (decode (Memory.read s.mem s.PC.toNat)) s := by
  have hstopped : s.stopped = none := s.stopped_eq_none_iff.2 ⟨h.notHalted, h.noFault⟩
  have hfetch : s.fetch = some (Memory.read s.mem s.PC.toNat) := s.memRead_inside h.pcInside
  simp only [step, hstopped, hfetch]

/-- Settles O3: the latches are the decoded fields by `exec_latches`, the fields are quotient and remainder by 16. -/
theorem decodeSplitsAndLatches : Obligations.DecodeSplitsAndLatches := by
  refine ⟨fun byte => ?_, fun s hs => ?_⟩
  · rw [opcode_decode, operand_decode]
    exact ⟨opcodeField_toNat byte, operandField_toNat byte⟩
  · obtain ⟨t, hexec, hIr, hOr⟩ := exec_latches (decode (Memory.read s.mem s.PC.toNat)) s
    refine ⟨t, (step_of_ready hs).trans hexec, ?_, ?_⟩
    · rw [hIr, opcode_decode, opcodeField_toNat]
    · rw [hOr, operand_decode, operandField_toNat]

/-! ### The byte of an instruction (30_encoding.md R83) -/

/-- `(opcode << 4) | operand` as numbers: no bit of the opcode is shifted out. -/
theorem packByte_toNat_or (opcode operand : Nibble) :
    (packByte opcode operand).toNat = (opcode.toNat <<< 4) ||| operand.toNat := by
  have hfits : opcode.toNat <<< 4 < 2 ^ 8 := by
    have := opcode.isLt
    rw [Nat.shiftLeft_eq]
    omega
  rw [packByte, BitVec.toNat_or, BitVec.toNat_shiftLeft, toNat_setWidth_nibble, toNat_setWidth_nibble,
    Nat.mod_eq_of_lt hfits]

/-- The two nibbles share no bit, so the `|` is a sum. -/
theorem packByte_toNat (opcode operand : Nibble) :
    (packByte opcode operand).toNat = 16 * opcode.toNat + operand.toNat := by
  rw [packByte_toNat_or, ← Nat.shiftLeft_add_eq_or_of_lt operand.isLt, Nat.shiftLeft_eq, Nat.mul_comm]

/-- Settles O2: the bits above and below bit 4 are kept apart by `packByte_toNat` and `fields_packByte`. -/
theorem encodePacksOpcodeAndOperand : Obligations.EncodePacksOpcodeAndOperand := by
  refine ⟨fun opcode operand => ?_, fun i => rfl, rfl⟩
  exact ⟨packByte_toNat opcode operand, packByte_toNat_or opcode operand, fields_packByte opcode operand⟩

/-! ### The assembler's line (30_encoding.md R97, R100) -/

/-- A line of two tokens is its operand parsed, packed under the opcode of its mnemonic. -/
theorem assembleLine_of_two_tokens {line : SourceLine} {mnemonic operand : List Char}
    (h : tokens line = [mnemonic, operand]) :
    assembleLine line = (parseOperand operand).map (packByte (mnemonicOpcode mnemonic)) := by
  simp only [assembleLine, h]
  cases parseOperand operand <;> rfl

/-- Each named row of `mnemonicOpcode` is a named token, so only the fallback row is left for any other token. -/
theorem mnemonicOpcode_of_not_named {mnemonic : List Char} (h : mnemonic ∉ namedTokens) :
    mnemonicOpcode mnemonic = 0 := by
  unfold mnemonicOpcode
  split
  case h_13 => rfl
  all_goals exact absurd (by decide) h

theorem assembleLine_of_not_named {line : SourceLine} {mnemonic operand : List Char} {p : Nibble}
    (hline : tokens line = [mnemonic, operand]) (hname : mnemonic ∉ namedTokens) (hp : parseOperand operand = .ok p) :
    assembleLine line = .ok (packByte 0 p) := by
  rw [assembleLine_of_two_tokens hline, mnemonicOpcode_of_not_named hname, hp]
  rfl

/-- Settles O56: the spec's two examples follow from the general law. -/
theorem unknownMnemonicIsNop : Obligations.UnknownMnemonicIsNop := by
  refine ⟨fun _ _ _ _ => assembleLine_of_not_named, ?_, ?_⟩
  · exact assembleLine_of_not_named (mnemonic := ['f', 'o', 'o']) (operand := ['7']) (p := 7)
      (by decide) (by decide) rfl
  · exact assembleLine_of_not_named (mnemonic := ['L', 'D', 'A']) (operand := ['5']) (p := 5)
      (by decide) (by decide) rfl

end Sys2Proof.Proofs
end

