-- ==== Sys2Proof/Proofs/Alu.lean ====
section
/-! PROOFS. The ALU: its three outputs as facts about the integer sum or difference, and where ADD and SUB put them (42_alu.md). -/

namespace Sys2Proof.Proofs

open Sys2Proof.Machine

/-! ### The three outputs of the ALU (42_alu.md R140) -/

theorem aluExact_add (a b : Byte) : aluExact .add a b = (a.toNat : Int) + b.toNat := rfl

theorem aluExact_sub (a b : Byte) : aluExact .sub a b = (a.toNat : Int) - b.toNat := rfl

/-- The low byte of the unreduced result, also where a difference is negative: `%` on the integers has no negative value. -/
theorem aluApply_newB_toNat (op : AluOp) (a b : Byte) :
    ((aluApply op a b).newB.toNat : Int) = aluExact op a b % 256 :=
  calc ((BitVec.ofInt 8 (aluExact op a b)).toNat : Int)
    _ = ((aluExact op a b % 256).toNat : Int) := congrArg Nat.cast (BitVec.toNat_ofInt ..)
    _ = aluExact op a b % 256 := Int.toNat_of_nonneg (Int.emod_nonneg _ (by decide))

theorem aluApply_zero_iff (op : AluOp) (a b : Byte) :
    (aluApply op a b).zero = true ↔ aluExact op a b % 256 = 0 :=
  decide_eq_true_iff

theorem aluApply_carry_iff (op : AluOp) (a b : Byte) :
    (aluApply op a b).carry = true ↔ aluExact op a b > 255 ∨ aluExact op a b < 0 := by
  rw [aluApply, aluCarry, Bool.or_eq_true, decide_eq_true_iff, decide_eq_true_iff, gt_iff_lt]

/-! ### The instructions that use it (42_alu.md R143, R144) -/

/-- ADD and SUB end in such a state: the range check can add a fault record to it and no more, so A is kept and B and the flags are
the ALU's. -/
theorem setAlu_rangeCheck_fields (i : Instr) (r : AluResult) (s : State) :
    let t := ((s.beginStep i).setAlu r).rangeCheck .runoff
    t.A = s.A ∧ t.B = r.newB ∧ t.zero = r.zero ∧ t.carry = r.carry := by
  simp

/-- Settles O37: the ALU's outputs by the three lemmas on `aluExact`, the states after ADD and SUB by `setAlu_rangeCheck_fields`. -/
theorem aluMeetsItsDefinition : Obligations.AluMeetsItsDefinition := by
  refine ⟨fun a b => ?_, fun p s => ⟨?_, ?_⟩⟩
  · rw [← aluExact_add, ← aluExact_sub]
    exact ⟨aluApply_newB_toNat .add a b, aluApply_zero_iff .add a b, aluApply_carry_iff .add a b,
      aluApply_newB_toNat .sub a b, aluApply_zero_iff .sub a b, aluApply_carry_iff .sub a b⟩
  · exact ⟨_, execAdd_eq p s, setAlu_rangeCheck_fields (.add p) (aluApply .add s.A s.B) s⟩
  · exact ⟨_, execSub_eq p s, setAlu_rangeCheck_fields (.sub p) (aluApply .sub s.A s.B) s⟩

/-- Settles O38: two vectors, evaluated. -/
theorem aluTestProperties : Obligations.AluTestProperties :=
  ⟨by decide, by decide⟩

end Sys2Proof.Proofs
end

