-- ==== Sys2Proof/Proofs/System.lean ====
section
/-! PROOFS. The system instructions: HLT ends the run at every address, and nothing follows it (44_system.md). -/

namespace Sys2Proof.Proofs

open Sys2Proof.Machine Sys2Proof.Safety Sys2Proof.Laws

/-- HALTED is terminal (40_step_cycle.md R117). -/
theorem step_ne_next_of_halted {s : State} (h : s.halted = true) (t : State) : step s ≠ .next t := by
  intro hstep
  obtain ⟨hrunning, -⟩ := step_eq_next hstep
  simp [h] at hrunning

/-- Settles O18: by `execHlt_eq` the range check finds `halted` set and raises nothing, so HLT answers its halted state wherever
it stands (R164), and `step_ne_next_of_halted` ends the run there. -/
theorem hltHaltsForEver : Obligations.HltHaltsForEver := by
  intro p s _
  refine ⟨(s.beginStep (.hlt p)).halt, rfl, execHlt_eq p s, rfl, ?_, ?_⟩
  · obtain ⟨hopcode, -⟩ := EncodedFields.hlt p
    exact hopcode
  · exact step_ne_next_of_halted (State.halt_halted _)

end Sys2Proof.Proofs
end

