-- ==== Sys2Proof/Proofs/Exceptions.lean ====
section
/-! PROOFS. The normal end: who raises Halted, and where a run's end is read as Halted (60_exceptions.md). -/

namespace Sys2Proof.Proofs

open Sys2Proof.Machine

/-- Who writes `halted`: HLT sets it, and every other instruction keeps it, whichever way its arm ends (10_state.md R29). -/
theorem exec_halted {i : Instr} {s t : State} (h : exec i s = .next t) :
    t.halted = (s.halted || decide (i.opcode = 14)) := by
  cases i with
  | hlt p =>
    cases (execHlt_eq p s).symm.trans h
    simp
  | nop p | add p | sub p | jmp p | unassigned10 p | unassigned11 p | unassigned12 p | unassigned13 p | out p =>
    simp only [execNop_eq, execAdd_eq, execSub_eq, execJmp_eq, execUnassigned10_eq, execUnassigned11_eq,
      execUnassigned12_eq, execUnassigned13_eq, execOut_eq, Host.Outcome.next.injEq] at h
    subst h
    simp
  | lda p | sta p | ldb p | stb p | jnz p | jnc p =>
    simp only [execLda_eq, execSta_eq, execLdb_eq, execStb_eq, execJnz_eq, execJnc_eq, Host.Outcome.next.injEq] at h
    subst h
    split <;> simp

/-- The latch tells which instruction ran, by `exec_latches`. -/
theorem exec_Ir {i : Instr} {s t : State} (h : exec i s = .next t) : t.Ir = i.opcode := by
  obtain ⟨u, hu, hIr, -⟩ := exec_latches i s
  cases hu.symm.trans h
  exact hIr

/-- A step starts RUNNING, so after it `halted` says whether this very step was HLT (60_exceptions.md R172). -/
theorem step_halted_iff {s t : State} (h : step s = .next t) : t.halted = true ↔ t.Ir = 14 := by
  obtain ⟨hrunning, -, -, hexec⟩ := step_eq_next h
  rw [exec_halted hexec, exec_Ir hexec, hrunning, Bool.false_or, decide_eq_true_iff]

/-- A fault record wins over `halted`, and the bound is the cause only where neither is set (40_step_cycle.md R121). -/
theorem endCause_eq_halted_iff (s : State) : endCause s = .halted ↔ s.halted = true ∧ s.fault = none := by
  unfold endCause
  cases s.fault <;> simp

/-- Settles O31: HLT and no other step by `step_halted_iff`, for good by `step_ne_next_of_halted`, the cause by
`endCause_eq_halted_iff`. -/
theorem onlyHltHalts : Obligations.OnlyHltHalts :=
  ⟨fun _ _ => step_halted_iff, fun _ => step_ne_next_of_halted, endCause_eq_halted_iff⟩

end Sys2Proof.Proofs
end

