-- ==== Sys2Proof/Proofs/Reset.lean ====
section
/-! PROOFS. Reset: which image it takes, and the memory it builds (70_reset_and_hazards.md). -/

namespace Sys2Proof.Proofs

open Sys2Proof.Machine

/-- The refusal of R201 is the only one: a legal size with an image of that length always resets. -/
theorem resetWith_of_legal {memSize : Nat} {image : List Byte} (hsize : Config.legalMemSize memSize = true)
    (hlength : image.length = memSize) : resetWith memSize image = some (initialState memSize image) :=
  if_pos ⟨hsize, hlength⟩

/-- `mem[a] <- img[a]` (70_reset_and_hazards.md R200), also for the zero bytes, which the canonical form does not list. -/
theorem read_initialState_mem (memSize : Nat) (image : List Byte) (a : Nat) (h : a < image.length) :
    Memory.read (initialState memSize image).mem a = image[a] := by
  have hread := Memory.read_ofBytes (addr := 0) image a h
  rwa [Nat.zero_add] at hread

/-- Settles O42: reset succeeds by `resetWith_of_legal`, `initialState` lists every register, flag and stream at its reset value,
and the cells are the image's bytes by `read_initialState_mem`. -/
theorem resetEstablishesTheInitialState : Obligations.ResetEstablishesTheInitialState := by
  intro memSize image hsize hlength
  exact ⟨initialState memSize image, resetWith_of_legal hsize hlength, rfl, rfl, rfl, rfl, rfl, rfl, rfl, rfl, rfl, rfl, rfl, rfl,
    rfl, rfl, read_initialState_mem memSize image⟩

end Sys2Proof.Proofs
end

/-! PROOFS. Every instruction ends in one of four ways (`ExecEnd`). From that one law follow what a step writes and keeps, the
exact next states, the faults, the invariant and the runs; beside it stand the encoding, the ALU, reset and the assembler. -/

namespace Sys2Proof.Proofs

open Sys2Proof.Machine Sys2Proof.Safety Sys2Proof.Laws

/-! ### Decode and encode (30_encoding.md section 4) -/

/-- The row of an instruction's own opcode is that instruction. -/
theorem instrOf_fields (i : Instr) : instrOf i.opcode i.operand = i := by
  cases i <;> simp [instrOf]

theorem decode_encode (i : Instr) : decode (encode i) = i := by
  obtain ⟨hopcode, hoperand⟩ := fields_packByte i.opcode i.operand
  rw [decode, encode, hopcode, hoperand, instrOf_fields]

/-- Quotient and remainder by 16 make up the byte again. -/
theorem packByte_fields (byte : Byte) : packByte (opcodeField byte) (operandField byte) = byte := by
  apply BitVec.eq_of_toNat_eq
  rw [packByte_toNat, opcodeField_toNat, operandField_toNat]
  omega

theorem encode_decode (byte : Byte) : encode (decode byte) = byte := by
  rw [encode, opcode_decode, operand_decode, packByte_fields]

/-- Settles O1: `decode_encode` and `encode_decode` make the two functions inverse of each other. -/
theorem decodeEncodeRoundTrip : Obligations.DecodeEncodeRoundTrip := by
  refine ⟨decode_encode, fun byte i => ⟨?_, ?_⟩⟩
  · rintro rfl
    exact encode_decode byte
  · rintro rfl
    exact decode_encode i

/-! ### Bytes written out (30_encoding.md section 3) -/

/-- Settles O4: each row's byte is the packing of its opcode and operand, decoded by `decode_encode`. -/
theorem opcodeMapRows : Obligations.OpcodeMapRows := by
  intro p
  exact ⟨decode_encode (.nop p), decode_encode (.lda p), decode_encode (.sta p), decode_encode (.ldb p),
    decode_encode (.stb p), decode_encode (.add p), decode_encode (.sub p), decode_encode (.jmp p),
    decode_encode (.jnz p), decode_encode (.jnc p), decode_encode (.unassigned10 p), decode_encode (.unassigned11 p),
    decode_encode (.unassigned12 p), decode_encode (.unassigned13 p), decode_encode (.hlt p), decode_encode (.out p)⟩

/-- Settles O5: `decode_encode` at eleven instructions. -/
theorem wordsFromTheSpecDecode : Obligations.WordsFromTheSpecDecode :=
  ⟨decode_encode (.lda 5), decode_encode (.ldb 6), decode_encode (.add 0), decode_encode (.out 0), decode_encode (.hlt 0),
    decode_encode (.sta 3), decode_encode (.stb 14), decode_encode (.jmp 3), decode_encode (.jnc 2),
    decode_encode (.unassigned11 12), decode_encode (.sub 12)⟩

/-! ### The ALU in byte arithmetic (42_alu.md) -/

theorem aluApply_add_newB (a b : Byte) : (aluApply .add a b).newB = a + b := by
  apply BitVec.eq_of_toNat_eq
  have h := aluApply_newB_toNat .add a b
  rw [aluExact_add] at h
  rw [BitVec.toNat_add]
  omega

theorem aluApply_sub_newB (a b : Byte) : (aluApply .sub a b).newB = a - b := by
  apply BitVec.eq_of_toNat_eq
  have h := aluApply_newB_toNat .sub a b
  rw [aluExact_sub] at h
  have hb := b.isLt
  rw [BitVec.toNat_sub]
  omega

/-- Both operations judge zero on the byte they give. -/
theorem aluApply_zero (op : AluOp) (a b : Byte) :
    (aluApply op a b).zero = decide ((aluApply op a b).newB = 0) := by
  have h := aluApply_newB_toNat op a b
  rw [Bool.eq_iff_iff, aluApply_zero_iff, decide_eq_true_iff, ← BitVec.toNat_inj, ← h]
  exact Int.natCast_eq_zero

theorem aluApply_add_carry (a b : Byte) : (aluApply .add a b).carry = decide (255 < a.toNat + b.toNat) := by
  rw [Bool.eq_iff_iff, aluApply_carry_iff, aluExact_add, decide_eq_true_iff]
  omega

/-- The borrow. -/
theorem aluApply_sub_carry (a b : Byte) : (aluApply .sub a b).carry = decide (a.toNat < b.toNat) := by
  have ha := a.isLt
  rw [Bool.eq_iff_iff, aluApply_carry_iff, aluExact_sub, decide_eq_true_iff]
  omega

theorem aluApply_add (a b : Byte) :
    aluApply .add a b = ⟨a + b, decide (a + b = 0), decide (255 < a.toNat + b.toNat)⟩ := by
  rw [← aluApply_add_newB, ← aluApply_zero, ← aluApply_add_carry]

theorem aluApply_sub (a b : Byte) :
    aluApply .sub a b = ⟨a - b, decide (a = b), decide (a.toNat < b.toNat)⟩ := by
  have hzero : decide (a = b) = decide (a - b = 0) := decide_eq_decide.2 sub_eq_zero.symm
  rw [hzero, ← aluApply_sub_newB, ← aluApply_zero, ← aluApply_sub_carry]

/-! The nine bits as numbers (42_alu.md R142). -/

theorem aluNineBits_add_toNat (a b : Byte) : (aluNineBits .add a b).toNat = a.toNat + b.toNat := by
  have ha := a.isLt
  have hb := b.isLt
  rw [aluNineBits, BitVec.toNat_add, BitVec.toNat_setWidth, BitVec.toNat_setWidth]
  omega

theorem aluNineBits_sub_toNat (a b : Byte) :
    (aluNineBits .sub a b).toNat = (512 - b.toNat + a.toNat) % 512 := by
  have ha := a.isLt
  have hb := b.isLt
  rw [aluNineBits, BitVec.toNat_sub, BitVec.toNat_setWidth, BitVec.toNat_setWidth]
  omega

theorem aluHardware_newB_toNat (op : AluOp) (a b : Byte) :
    (aluHardware op a b).newB.toNat = (aluNineBits op a b).toNat % 256 := by
  rw [aluHardware, BitVec.extractLsb'_toNat, Nat.shiftRight_zero]

theorem aluHardware_newB (op : AluOp) (a b : Byte) : (aluHardware op a b).newB = (aluApply op a b).newB := by
  have ha := a.isLt
  have hb := b.isLt
  apply BitVec.eq_of_toNat_eq
  rw [aluHardware_newB_toNat]
  cases op with
  | add => rw [aluNineBits_add_toNat, aluApply_add_newB, BitVec.toNat_add]
  | sub =>
    rw [aluNineBits_sub_toNat, aluApply_sub_newB, BitVec.toNat_sub]
    omega

/-- Bit 8 is the value's top bit: set by a sum above 255, and by a difference below 0, which wraps at 512. -/
theorem aluHardware_carry (op : AluOp) (a b : Byte) : (aluHardware op a b).carry = (aluApply op a b).carry := by
  have ha := a.isLt
  have hb := b.isLt
  have htop : (aluHardware op a b).carry = decide (256 ≤ (aluNineBits op a b).toNat) :=
    BitVec.msb_eq_decide (aluNineBits op a b)
  rw [htop]
  cases op with
  | add =>
    rw [aluNineBits_add_toNat, aluApply_add_carry]
    rfl
  | sub =>
    rw [aluNineBits_sub_toNat, aluApply_sub_carry, decide_eq_decide]
    omega

theorem aluResult_ext {r q : AluResult} (hnewB : r.newB = q.newB) (hzero : r.zero = q.zero)
    (hcarry : r.carry = q.carry) : r = q := by
  cases r
  cases q
  cases hnewB
  cases hzero
  cases hcarry
  rfl

/-- Settles O39: output by output; zero is judged on the same byte in both readings. -/
theorem hardwareAluIsTheAlu : Obligations.HardwareAluIsTheAlu := by
  intro op a b
  have hzero : (aluHardware op a b).zero = (aluApply op a b).zero := by
    rw [aluApply_zero, ← aluHardware_newB]
    rfl
  exact aluResult_ext (aluHardware_newB op a b) hzero (aluHardware_carry op a b)

theorem byte_add_eq_zero_iff (a b : Byte) : a + b = 0 ↔ (a.toNat + b.toNat) % 256 = 0 := by
  rw [← BitVec.toNat_inj, BitVec.toNat_add]
  rfl

theorem byte_add_eq_ofNat (a b : Byte) : a + b = BitVec.ofNat 8 (a.toNat + b.toNat) := by
  rw [BitVec.ofNat_add, BitVec.ofNat_toNat, BitVec.ofNat_toNat, BitVec.setWidth_eq, BitVec.setWidth_eq]

theorem byte_sub_eq_ofNat (a b : Byte) : a - b = BitVec.ofNat 8 (a.toNat + 256 - b.toNat) := by
  have hb := b.isLt
  apply BitVec.eq_of_toNat_eq
  rw [BitVec.toNat_sub, BitVec.toNat_ofNat]
  omega

/-- Settles O40: the ALU's outputs in byte arithmetic, by `aluApply_add` and `aluApply_sub`. -/
theorem subComparesAndUndoesItself : Obligations.SubComparesAndUndoesItself := by
  intro a b
  have ha := a.isLt
  have hb := b.isLt
  simp only [aluApply_sub, aluApply_add, decide_eq_true_eq, true_and, sub_sub_cancel, and_true]
  refine ⟨?_, ?_⟩
  · rintro ⟨rfl, hlt⟩
    exact Nat.lt_irrefl _ hlt
  · rw [byte_add_eq_zero_iff]
    omega

/-- Settles O41: one more ADD adds A once more modulo 256. -/
theorem repeatedAddAccumulates : Obligations.RepeatedAddAccumulates := by
  intro n a b
  induction n with
  | zero =>
    have hb := b.isLt
    rw [Function.iterate_zero_apply]
    omega
  | succ n ih =>
    rw [Function.iterate_succ_apply', aluApply_add_newB, BitVec.toNat_add, ih, Nat.add_mul]
    omega

/-! ### The four ends of an instruction (40_step_cycle.md R114, R115) -/

/-- The instruction is a load or a store. -/
abbrev AccessesData (i : Instr) : Prop := i.opcode = 1 ∨ i.opcode = 2 ∨ i.opcode = 3 ∨ i.opcode = 4

/-- Its data address does not exist (20_memory.md R58). -/
abbrev DataFaults (i : Instr) (s : State) : Prop := AccessesData i ∧ s.memSize ≤ i.operand.toNat

/-- Its jump is taken (43_control_transfer.md R151 to R153). -/
abbrev JumpTaken (i : Instr) (s : State) : Prop :=
  i.opcode = 7 ∨ (i.opcode = 8 ∧ s.zero = false) ∨ (i.opcode = 9 ∧ s.carry = false)

/-- None of the exceptions to a sequential end: no data fault, no taken jump, no HLT. -/
structure Sequential (i : Instr) (s : State) : Prop where
  noDataFault : ¬ DataFaults i s
  noJump : ¬ JumpTaken i s
  noHalt : i.opcode ≠ 14

/-- The state before phase 5, but for the PC of a taken jump and for HLT's flag: the count, the latches, the advance, and the
write of the arm. -/
def armEffect (i : Instr) (s : State) : State :=
  match i with
  | .lda addr => (s.beginStep i).setA (Memory.read s.mem addr.toNat)
  | .sta addr => (s.beginStep i).storeByte addr.toNat s.A
  | .ldb addr => (s.beginStep i).setB (Memory.read s.mem addr.toNat)
  | .stb addr => (s.beginStep i).storeByte addr.toNat s.B
  | .add _ => (s.beginStep i).setAlu (aluApply .add s.A s.B)
  | .sub _ => (s.beginStep i).setAlu (aluApply .sub s.A s.B)
  | .unassigned10 _ | .unassigned11 _ | .unassigned12 _ | .unassigned13 _ =>
    (s.beginStep i).report s.PC (encode i)
  | .out _ => (s.beginStep i).emit s.A
  | .nop _ | .jmp _ | .jnz _ | .jnc _ | .hlt _ => s.beginStep i

/-- A bad data address ends the instruction before its access (60_exceptions.md R175). -/
theorem exec_of_dataFaults {i : Instr} {s : State} (h : DataFaults i s) :
    exec i s = .next ((s.beginStep i).raise .data (i.operand.setWidth 8)) := by
  obtain ⟨haccess, hout⟩ := h
  have hnot : ¬ i.operand.toNat < s.memSize := Nat.not_lt.2 hout
  cases i with
  | lda p => exact (execLda_eq p s).trans (congrArg _ (if_neg hnot))
  | sta p => exact (execSta_eq p s).trans (congrArg _ (if_neg hnot))
  | ldb p => exact (execLdb_eq p s).trans (congrArg _ (if_neg hnot))
  | stb p => exact (execStb_eq p s).trans (congrArg _ (if_neg hnot))
  | nop p | add p | sub p | jmp p | jnz p | jnc p | unassigned10 p | unassigned11 p | unassigned12 p | unassigned13 p
  | hlt p | out p => simp [AccessesData] at haccess

/-- A taken jump has its target judged by the range check (40_step_cycle.md R115). -/
theorem exec_of_jumpTaken {i : Instr} {s : State} (h : JumpTaken i s) :
    exec i s = .next (((armEffect i s).setPC (i.operand.setWidth 8)).rangeCheck .jump) := by
  cases i with
  | jmp p => exact execJmp_eq p s
  | jnz p => exact (execJnz_eq p s).trans (congrArg _ (if_pos (by simpa [JumpTaken] using h)))
  | jnc p => exact (execJnc_eq p s).trans (congrArg _ (if_pos (by simpa [JumpTaken] using h)))
  | nop p | lda p | sta p | ldb p | stb p | add p | sub p | unassigned10 p | unassigned11 p | unassigned12 p
  | unassigned13 p | hlt p | out p => simp [JumpTaken] at h

theorem exec_of_hlt {i : Instr} {s : State} (h : i.opcode = 14) : exec i s = .next (armEffect i s).halt := by
  cases i with
  | hlt p => exact execHlt_eq p s
  | nop p | lda p | sta p | ldb p | stb p | add p | sub p | jmp p | jnz p | jnc p | unassigned10 p | unassigned11 p
  | unassigned12 p | unassigned13 p | out p => simp at h

/-- Everything else leaves PC at the advanced value, judged by the range check. -/
theorem exec_of_sequential {i : Instr} {s : State} (h : Sequential i s) :
    exec i s = .next ((armEffect i s).rangeCheck .runoff) := by
  obtain ⟨hdata, hjump, hhalt⟩ := h
  have hinside (haccess : AccessesData i) : i.operand.toNat < s.memSize :=
    Nat.lt_of_not_le fun hout => hdata ⟨haccess, hout⟩
  cases i with
  | nop p | add p | sub p | unassigned10 p | unassigned11 p | unassigned12 p | unassigned13 p | out p => rfl
  | lda p => exact (execLda_eq p s).trans (congrArg _ (if_pos (hinside (by simp [AccessesData]))))
  | sta p => exact (execSta_eq p s).trans (congrArg _ (if_pos (hinside (by simp [AccessesData]))))
  | ldb p => exact (execLdb_eq p s).trans (congrArg _ (if_pos (hinside (by simp [AccessesData]))))
  | stb p => exact (execStb_eq p s).trans (congrArg _ (if_pos (hinside (by simp [AccessesData]))))
  | jmp p => simp [JumpTaken] at hjump
  | jnz p => exact (execJnz_eq p s).trans (congrArg _ (if_neg (by simpa [JumpTaken] using hjump)))
  | jnc p => exact (execJnc_eq p s).trans (congrArg _ (if_neg (by simpa [JumpTaken] using hjump)))
  | hlt p => simp at hhalt

/-- How an instruction can end, with the state it then answers. -/
inductive ExecEnd (i : Instr) (s : State) : State → Prop where
  | dataFault (h : DataFaults i s) : ExecEnd i s ((s.beginStep i).raise .data (i.operand.setWidth 8))
  | jump (h : JumpTaken i s) : ExecEnd i s (((armEffect i s).setPC (i.operand.setWidth 8)).rangeCheck .jump)
  | halt (h : i.opcode = 14) : ExecEnd i s (armEffect i s).halt
  | sequential (h : Sequential i s) : ExecEnd i s ((armEffect i s).rangeCheck .runoff)

theorem exec_end_exists (i : Instr) (s : State) : ∃ t, exec i s = .next t ∧ ExecEnd i s t := by
  by_cases hdata : DataFaults i s
  · exact ⟨_, exec_of_dataFaults hdata, .dataFault hdata⟩
  by_cases hjump : JumpTaken i s
  · exact ⟨_, exec_of_jumpTaken hjump, .jump hjump⟩
  by_cases hhalt : i.opcode = 14
  · exact ⟨_, exec_of_hlt hhalt, .halt hhalt⟩
  · exact ⟨_, exec_of_sequential ⟨hdata, hjump, hhalt⟩, .sequential ⟨hdata, hjump, hhalt⟩⟩

theorem exec_end {i : Instr} {s t : State} (h : exec i s = .next t) : ExecEnd i s t := by
  obtain ⟨u, hu, hend⟩ := exec_end_exists i s
  cases hu.symm.trans h
  exact hend

theorem exec_Or {i : Instr} {s t : State} (h : exec i s = .next t) : t.Or = i.operand := by
  obtain ⟨u, hu, -, hOr⟩ := exec_latches i s
  cases hu.symm.trans h
  exact hOr

/-! What the arm keeps, whatever it writes. -/

@[simp] theorem armEffect_PC (i : Instr) (s : State) : (armEffect i s).PC = s.PC + 1 := by cases i <;> rfl
@[simp] theorem armEffect_Ir (i : Instr) (s : State) : (armEffect i s).Ir = i.opcode := by cases i <;> rfl
@[simp] theorem armEffect_Or (i : Instr) (s : State) : (armEffect i s).Or = i.operand := by cases i <;> rfl
@[simp] theorem armEffect_halted (i : Instr) (s : State) : (armEffect i s).halted = s.halted := by cases i <;> rfl
@[simp] theorem armEffect_fault (i : Instr) (s : State) : (armEffect i s).fault = s.fault := by cases i <;> rfl
@[simp] theorem armEffect_steps (i : Instr) (s : State) : (armEffect i s).steps = s.steps + 1 := by cases i <;> rfl
@[simp] theorem armEffect_memSize (i : Instr) (s : State) : (armEffect i s).memSize = s.memSize := by cases i <;> rfl

/-! What the arm writes. -/

theorem armEffect_A (i : Instr) (s : State) :
    (armEffect i s).A = if i.opcode = 1 then Memory.read s.mem i.operand.toNat else s.A := by
  cases i <;> rfl

theorem armEffect_B (i : Instr) (s : State) : (armEffect i s).B =
    if i.opcode = 3 then Memory.read s.mem i.operand.toNat
    else if i.opcode = 5 then (aluApply .add s.A s.B).newB
    else if i.opcode = 6 then (aluApply .sub s.A s.B).newB
    else s.B := by
  cases i <;> rfl

theorem armEffect_zero (i : Instr) (s : State) : (armEffect i s).zero =
    if i.opcode = 5 then (aluApply .add s.A s.B).zero
    else if i.opcode = 6 then (aluApply .sub s.A s.B).zero else s.zero := by
  cases i <;> rfl

theorem armEffect_carry (i : Instr) (s : State) : (armEffect i s).carry =
    if i.opcode = 5 then (aluApply .add s.A s.B).carry
    else if i.opcode = 6 then (aluApply .sub s.A s.B).carry else s.carry := by
  cases i <;> rfl

theorem armEffect_mem (i : Instr) (s : State) : (armEffect i s).mem =
    if i.opcode = 2 then Memory.write s.mem i.operand.toNat s.A
    else if i.opcode = 4 then Memory.write s.mem i.operand.toNat s.B else s.mem := by
  cases i <;> rfl

theorem armEffect_out (i : Instr) (s : State) :
    (armEffect i s).out = if i.opcode = 15 then s.out ++ [s.A] else s.out := by
  cases i <;> rfl

theorem armEffect_diag (i : Instr) (s : State) : (armEffect i s).diag =
    if i.opcode = 10 ∨ i.opcode = 11 ∨ i.opcode = 12 ∨ i.opcode = 13
    then s.diag ++ [⟨s.PC, encode i⟩] else s.diag := by
  cases i <;> rfl

/-- Two states agree on what programs compute with and on the streams. -/
structure SameData (t u : State) : Prop where
  A : t.A = u.A
  B : t.B = u.B
  zero : t.zero = u.zero
  carry : t.carry = u.carry
  mem : t.mem = u.mem
  out : t.out = u.out
  diag : t.diag = u.diag

/-- A data fault writes no data (92_eei_decisions.md D5); every other end has the arm's writes and no more. -/
theorem exec_data {i : Instr} {s t : State} (h : exec i s = .next t) :
    (DataFaults i s ∧ SameData t s) ∨ (¬ DataFaults i s ∧ SameData t (armEffect i s)) := by
  have hjumps (hj : JumpTaken i s) : ¬ DataFaults i s := by
    rintro ⟨hd, -⟩
    rcases hj with hj | ⟨hj, -⟩ | ⟨hj, -⟩ <;> simp [AccessesData, hj] at hd
  cases exec_end h with
  | dataFault hd => exact .inl ⟨hd, by constructor <;> simp⟩
  | jump hj => exact .inr ⟨hjumps hj, by constructor <;> simp⟩
  | halt hh => exact .inr ⟨by simp [DataFaults, AccessesData, hh], by constructor <;> simp⟩
  | sequential hs => exact .inr ⟨hs.noDataFault, by constructor <;> simp⟩

/-! ### Fetch and dispatch (40_step_cycle.md R110 to R117) -/

/-- A step that answers a next state started from a RUNNING state with its PC inside memory. -/
theorem ready_of_step {s t : State} (h : step s = .next t) : Ready s := by
  obtain ⟨hhalted, hfault, hpc, -⟩ := step_eq_next h
  exact ⟨hhalted, hfault, hpc⟩

theorem exec_of_step {s t : State} (h : step s = .next t) :
    exec (decode (Memory.read s.mem s.PC.toNat)) s = .next t := by
  obtain ⟨-, -, -, hexec⟩ := step_eq_next h
  exact hexec

/-- Settles O6: `step_of_ready` with the instruction named. -/
theorem stepRunsTheDecodedInstruction : Obligations.StepRunsTheDecodedInstruction := by
  rintro s _ hs rfl
  exact step_of_ready hs

/-- Settles O7: every instruction answers a next state, by `exec_end_exists`. -/
theorem stepExistsExactlyWhenReady : Obligations.StepExistsExactlyWhenReady := by
  refine fun s => ⟨fun ⟨_, ht⟩ => ready_of_step ht, fun hs => ?_⟩
  obtain ⟨t, ht, -⟩ := exec_end_exists (decode (Memory.read s.mem s.PC.toNat)) s
  exact ⟨t, (step_of_ready hs).trans ht⟩

/-- Settles O8: a FAULTED state stops with its record, a HALTED one as halted. -/
theorem stoppedMachineSaysWhy : Obligations.StoppedMachineSaysWhy := by
  refine ⟨fun s record hfault => ?_, fun s hhalted hfault => ?_⟩
  · have hstopped : s.stopped = some (.machineFaulted record.kind record.addr) := by simp only [State.stopped, hfault]
    simp only [step, hstopped]
  · have hstopped : s.stopped = some .machineHalted := by simp only [State.stopped, hfault, hhalted, if_true]
    simp only [step, hstopped]

/-! ### The control components after an instruction (10_state.md sections 3 and 6) -/

theorem exec_steps_memSize {i : Instr} {s t : State} (h : exec i s = .next t) :
    t.steps = s.steps + 1 ∧ t.memSize = s.memSize := by
  cases exec_end h <;> simp

/-- Settles O9: all four ends come from `beginStep`'s count. -/
theorem everyStepCountsAndKeepsSize : Obligations.EveryStepCountsAndKeepsSize :=
  fun _ _ h => exec_steps_memSize (exec_of_step h)

theorem not_jumpTaken_of_accessesData {i : Instr} {s : State} (h : AccessesData i) : ¬ JumpTaken i s := by
  rintro (hj | ⟨hj, -⟩ | ⟨hj, -⟩) <;> simp [AccessesData, hj] at h

theorem not_jumpTaken_of_hlt {i : Instr} {s : State} (h : i.opcode = 14) : ¬ JumpTaken i s := by
  simp [JumpTaken, h]

theorem exec_PC {i : Instr} {s t : State} (h : exec i s = .next t) :
    t.PC = if JumpTaken i s then i.operand.setWidth 8 else s.PC + 1 := by
  cases exec_end h with
  | dataFault hd => exact (if_neg (not_jumpTaken_of_accessesData hd.1)).symm
  | jump hj => rw [if_pos hj, State.rangeCheck_PC, State.setPC_PC]
  | halt hh => rw [if_neg (not_jumpTaken_of_hlt hh), State.halt_PC, armEffect_PC]
  | sequential hs => rw [if_neg hs.noJump, State.rangeCheck_PC, armEffect_PC]

/-- The 8-bit advance adds 1 or wraps to 0. -/
theorem advance_toNat_le (pc : Byte) : (pc + 1).toNat ≤ pc.toNat + 1 := by
  rw [BitVec.toNat_add]
  exact Nat.mod_le _ _

/-- Below a legal size the advance does not wrap (92_eei_decisions.md D2). -/
theorem advance_toNat {pc : Byte} (h : pc.toNat < 255) : (pc + 1).toNat = pc.toNat + 1 := by
  rw [BitVec.toNat_add]
  exact Nat.mod_eq_of_lt (Nat.succ_lt_succ h)

/-- Settles O10: `exec_PC`, with the latches for the instruction. -/
theorem whereThePCGoes : Obligations.WhereThePCGoes := by
  intro s t h
  have hexec := exec_of_step h
  rw [exec_Ir hexec, exec_Or hexec]
  exact ⟨exec_PC hexec, fun hsize => advance_toNat (Nat.lt_of_lt_of_le (ready_of_step h).pcInside hsize)⟩

/-! ### Faults (60_exceptions.md sections 1 and 3) -/

theorem legalMemSize_iff (size : Nat) : Config.legalMemSize size = true ↔ 1 ≤ size ∧ size ≤ 255 := by
  rw [Config.legalMemSize, Bool.and_eq_true, decide_eq_true_iff, decide_eq_true_iff]

theorem rangeCheck_fault (s : State) (kind : FaultKind) (h : s.halted = false) :
    (s.rangeCheck kind).fault = if s.memSize ≤ s.PC.toNat then some ⟨kind, s.PC⟩ else s.fault := by
  by_cases hpc : s.memSize ≤ s.PC.toNat
  · rw [State.rangeCheck_of_outside s kind h hpc, State.raise_fault, if_pos hpc]
  · rw [State.rangeCheck_of_inside s kind (Nat.lt_of_not_le hpc), if_neg hpc]

/-- Which record a RUNNING machine has after an instruction, by its four ends. -/
theorem exec_fault {i : Instr} {s t : State} (hs : Ready s) (h : exec i s = .next t) :
    t.fault =
      if DataFaults i s then some ⟨.data, i.operand.setWidth 8⟩
      else if i.opcode = 14 then none
      else if JumpTaken i s then
        if s.memSize ≤ i.operand.toNat then some ⟨.jump, i.operand.setWidth 8⟩ else none
      else if s.memSize ≤ (s.PC + 1).toNat then some ⟨.runoff, s.PC + 1⟩
      else none := by
  cases exec_end h with
  | dataFault hd => rw [if_pos hd, State.raise_fault]
  | jump hj =>
    have hd : ¬ DataFaults i s := fun hd => not_jumpTaken_of_accessesData hd.1 hj
    have hh : i.opcode ≠ 14 := fun hh => not_jumpTaken_of_hlt hh hj
    rw [if_neg hd, if_neg hh, if_pos hj, rangeCheck_fault _ _ (by simpa using hs.notHalted),
      State.setPC_memSize, State.setPC_PC, State.setPC_fault, armEffect_memSize, armEffect_fault,
      toNat_setWidth_nibble, hs.noFault]
  | halt hh =>
    have hd : ¬ DataFaults i s := by simp [DataFaults, AccessesData, hh]
    rw [if_neg hd, if_pos hh, State.halt_fault, armEffect_fault, hs.noFault]
  | sequential hq =>
    rw [if_neg hq.noDataFault, if_neg hq.noHalt, if_neg hq.noJump, rangeCheck_fault _ _ (by simpa using hs.notHalted),
      armEffect_memSize, armEffect_PC, armEffect_fault, hs.noFault]

/-- At the last address of a legal memory the advanced PC is `MEM_SIZE`, anywhere before it is inside. -/
theorem memSize_le_advance_iff {s : State} (hs : Ready s) (hsize : Config.legalMemSize s.memSize = true) :
    s.memSize ≤ (s.PC + 1).toNat ↔ s.PC.toNat + 1 = s.memSize := by
  obtain ⟨-, hmax⟩ := (legalMemSize_iff _).1 hsize
  have hpc := hs.pcInside
  rw [advance_toNat (by omega)]
  omega

theorem ofNat_memSize {s : State} (h : s.PC.toNat + 1 = s.memSize) : BitVec.ofNat 8 s.memSize = s.PC + 1 := by
  apply BitVec.eq_of_toNat_eq
  rw [← h, BitVec.toNat_add]
  exact BitVec.toNat_ofNat _ _

/-- Settles O26: `exec_fault`, with the run-off read as the last address. -/
theorem faultTableAndPriority : Obligations.FaultTableAndPriority := by
  intro s t hsize h
  have hs := ready_of_step h
  have hexec := exec_of_step h
  have hrunoff : (if s.memSize ≤ (s.PC + 1).toNat then some (⟨.runoff, s.PC + 1⟩ : OutOfBoundsAddress) else none) =
      if s.PC.toNat + 1 = s.memSize then some ⟨.runoff, BitVec.ofNat 8 s.memSize⟩ else none := by
    by_cases hlast : s.PC.toNat + 1 = s.memSize
    · rw [if_pos hlast, if_pos ((memSize_le_advance_iff hs hsize).2 hlast), ofNat_memSize hlast]
    · rw [if_neg hlast, if_neg (mt (memSize_le_advance_iff hs hsize).1 hlast)]
  rw [exec_Ir hexec, exec_Or hexec, ← hrunoff]
  exact exec_fault hs hexec

/-- Settles O27: every operand is an address of sixteen cells, so of the records of `exec_fault` only the run-off's is left. -/
theorem sixteenCellsOnlyRunOff : Obligations.SixteenCellsOnlyRunOff := by
  intro s t record hsize h hrecord
  have hs := ready_of_step h
  have hexec := exec_of_step h
  have hoperand : ¬ s.memSize ≤ (decode (Memory.read s.mem s.PC.toNat)).operand.toNat := by
    have := (decode (Memory.read s.mem s.PC.toNat)).operand.isLt
    omega
  have hfault := exec_fault hs hexec
  rw [hrecord, if_neg (fun hd => hoperand hd.2), if_neg hoperand] at hfault
  split at hfault
  · cases hfault
  split at hfault
  · cases hfault
  split at hfault
  · rename_i hnojump hout
    cases hfault
    have hle := advance_toNat_le s.PC
    have hpc := hs.pcInside
    have hnext : (s.PC + 1).toNat = s.memSize := by omega
    rw [exec_PC hexec, if_neg hnojump]
    exact ⟨rfl, hnext, hnext, by omega⟩
  · cases hfault

/-! ### The data components after an instruction (10_state.md sections 2, 5 and 6; 20_memory.md section 1) -/

/-- Settles O28: only LDA's arm writes A, and a data fault keeps it. -/
theorem onlyLdaWritesA : Obligations.OnlyLdaWritesA := by
  intro s t h
  have hexec := exec_of_step h
  rw [exec_Ir hexec, exec_Or hexec]
  rcases exec_data hexec with ⟨hd, hdata⟩ | ⟨hd, hdata⟩
  · rw [hdata.A, if_neg (fun hload => Nat.not_le.2 hload.2 hd.2)]
  · have hload (hop : (decode (Memory.read s.mem s.PC.toNat)).opcode = 1) :
        (decode (Memory.read s.mem s.PC.toNat)).operand.toNat < s.memSize :=
      Nat.lt_of_not_le fun hout => hd ⟨.inl hop, hout⟩
    rw [hdata.A, armEffect_A, if_congr (and_iff_left_of_imp hload) rfl rfl]

/-- Settles O29: a data fault keeps B, and is none of ADD and SUB. -/
theorem onlyLdbAndTheAluWriteB : Obligations.OnlyLdbAndTheAluWriteB := by
  intro s t h
  have hexec := exec_of_step h
  rw [exec_Ir hexec, exec_Or hexec]
  generalize decode (Memory.read s.mem s.PC.toNat) = i at hexec
  rcases exec_data hexec with ⟨⟨haccess, hout⟩, hdata⟩ | ⟨hd, hdata⟩
  · have hadd : i.opcode ≠ 5 := fun hop => by simp [AccessesData, hop] at haccess
    have hsub : i.opcode ≠ 6 := fun hop => by simp [AccessesData, hop] at haccess
    rw [hdata.B, if_neg (fun hload => Nat.not_le.2 hload.2 hout), if_neg hadd, if_neg hsub]
  · have hload (hop : i.opcode = 3) : i.operand.toNat < s.memSize :=
      Nat.lt_of_not_le fun hout => hd ⟨.inr (.inr (.inl hop)), hout⟩
    rw [hdata.B, armEffect_B, if_congr (and_iff_left_of_imp hload) rfl rfl, aluApply_add_newB, aluApply_sub_newB]

/-- Settles O30: the flags after ADD and SUB are the ALU's, judged on the B it gives. -/
theorem onlyTheAluWritesFlags : Obligations.OnlyTheAluWritesFlags := by
  intro s t h
  have hexec := exec_of_step h
  rw [exec_Ir hexec]
  generalize decode (Memory.read s.mem s.PC.toNat) = i at hexec
  rcases exec_data hexec with ⟨⟨haccess, -⟩, hdata⟩ | ⟨-, hdata⟩
  · refine ⟨fun hop => ?_, fun hop => ?_, fun _ _ => ⟨hdata.zero, hdata.carry⟩⟩ <;>
      simp [AccessesData, hop] at haccess
  · rw [hdata.zero, hdata.carry, hdata.B, armEffect_zero, armEffect_carry, armEffect_B]
    refine ⟨fun hop => ?_, fun hop => ?_, fun hadd hsub => ?_⟩
    · simp [hop, aluApply_zero, aluApply_add_carry]
    · simp [hop, aluApply_zero, aluApply_sub_carry]
    · rw [if_neg hadd, if_neg hsub, if_neg hadd, if_neg hsub]
      exact ⟨rfl, rfl⟩

/-- Settles O32: the arms of STA and STB write one cell, the others none. -/
theorem onlyStoresWriteMemory : Obligations.OnlyStoresWriteMemory := by
  intro i s t h a ha
  rcases exec_data h with ⟨-, hdata⟩ | ⟨-, hdata⟩
  · rw [hdata.mem]
  · rw [hdata.mem]
    cases i with
    | sta addr => exact Memory.read_write_other _ _ _ _ (ha addr (.inl rfl))
    | stb addr => exact Memory.read_write_other _ _ _ _ (ha addr (.inr rfl))
    | nop p | lda p | ldb p | add p | sub p | jmp p | jnz p | jnc p | unassigned10 p | unassigned11 p
    | unassigned12 p | unassigned13 p | hlt p | out p => rfl

/-- Settles O33: the reported byte is the fetched one, by `encode_decode`. -/
theorem onlyOutAndUnassignedAppend : Obligations.OnlyOutAndUnassignedAppend := by
  intro s t h
  have hexec := exec_of_step h
  rw [exec_Ir hexec]
  rcases exec_data hexec with ⟨⟨haccess, -⟩, hdata⟩ | ⟨-, hdata⟩
  · rw [hdata.out, hdata.diag]
    rcases haccess with hop | hop | hop | hop <;> simp [hop]
  · rw [hdata.out, hdata.diag, armEffect_out, armEffect_diag, encode_decode]
    exact ⟨rfl, rfl⟩

/-! ### Exact next states: which instructions end sequentially -/

theorem sequential_of_accessesData {i : Instr} {s : State} (haccess : AccessesData i)
    (hinside : i.operand.toNat < s.memSize) : Sequential i s := by
  refine ⟨fun hd => Nat.not_le.2 hinside hd.2, not_jumpTaken_of_accessesData haccess, fun hop => ?_⟩
  simp [AccessesData, hop] at haccess

theorem usesOperand_iff (i : Instr) :
    i.usesOperand = true ↔ AccessesData i ∨ i.opcode = 7 ∨ i.opcode = 8 ∨ i.opcode = 9 := by
  cases i <;> simp [Instr.usesOperand, AccessesData]

theorem usesOperand_of_accessesData {i : Instr} (h : AccessesData i) : i.usesOperand = true :=
  (usesOperand_iff i).2 (.inl h)

theorem usesOperand_of_jumpTaken {i : Instr} {s : State} (h : JumpTaken i s) : i.usesOperand = true :=
  (usesOperand_iff i).2 (.inr (h.imp_right (.imp And.left And.left)))

/-- An instruction that is no load, store or jump, and not HLT. -/
theorem sequential_of_plain {i : Instr} {s : State} (husesNot : i.usesOperand = false) (hhalt : i.opcode ≠ 14) :
    Sequential i s := by
  refine ⟨fun ⟨haccess, _⟩ => ?_, fun hjump => ?_, hhalt⟩
  · exact Bool.eq_false_iff.1 husesNot (usesOperand_of_accessesData haccess)
  · exact Bool.eq_false_iff.1 husesNot (usesOperand_of_jumpTaken hjump)

theorem sequential_jnz {target : Nibble} {s : State} (h : s.zero = true) : Sequential (.jnz target) s := by
  constructor <;> simp [DataFaults, AccessesData, JumpTaken, h]

theorem sequential_jnc {target : Nibble} {s : State} (h : s.carry = true) : Sequential (.jnc target) s := by
  constructor <;> simp [DataFaults, AccessesData, JumpTaken, h]

/-! ### Before the last address a sequential end raises nothing (40_step_cycle.md R115) -/

theorem exec_before_last {i : Instr} {s : State} (hs : ReadyBeforeLast s) (h : Sequential i s) :
    exec i s = .next (armEffect i s) := by
  have hpc : (armEffect i s).PC.toNat < (armEffect i s).memSize := by
    rw [armEffect_PC, armEffect_memSize]
    exact Nat.lt_of_le_of_lt (advance_toNat_le s.PC) hs.nextInside
  rw [exec_of_sequential h, State.rangeCheck_of_inside _ _ hpc]

/-- Settles O11: `exec_before_last` for the two loads. -/
theorem loadsWriteTheRegister : Obligations.LoadsWriteTheRegister := by
  intro addr s hs haddr
  exact ⟨exec_before_last hs (sequential_of_accessesData (by simp [AccessesData]) haddr),
    exec_before_last hs (sequential_of_accessesData (by simp [AccessesData]) haddr)⟩

/-- Settles O12: `exec_before_last` for the two stores. -/
theorem storesWriteTheCell : Obligations.StoresWriteTheCell := by
  intro addr s hs haddr
  exact ⟨exec_before_last hs (sequential_of_accessesData (by simp [AccessesData]) haddr),
    exec_before_last hs (sequential_of_accessesData (by simp [AccessesData]) haddr)⟩

/-- Settles O14: the sum and the difference of `aluApply_add` and `aluApply_sub`, written with numbers. -/
theorem addAndSubWriteB : Obligations.AddAndSubWriteB := by
  intro p s hs
  refine ⟨?_, ?_⟩
  · rw [exec_before_last hs (sequential_of_plain rfl (by simp)), ← byte_add_eq_ofNat,
      ← decide_eq_decide.2 (byte_add_eq_zero_iff s.A s.B), armEffect, aluApply_add]
    rfl
  · rw [exec_before_last hs (sequential_of_plain rfl (by simp)), ← byte_sub_eq_ofNat, armEffect, aluApply_sub]
    rfl

/-- Settles O16: with the flag set neither jump is taken, and an untaken one is sequential whatever its operand. -/
theorem untakenJumpsFallThrough : Obligations.UntakenJumpsFallThrough :=
  fun _ _ hs => ⟨fun hzero => exec_before_last hs (sequential_jnz hzero),
    fun hcarry => exec_before_last hs (sequential_jnc hcarry)⟩

/-- Settles O17: NOP's arm writes nothing. -/
theorem nopOnlyAdvances : Obligations.NopOnlyAdvances :=
  fun _ _ hs => exec_before_last hs (sequential_of_plain rfl (by simp))

/-- Settles O19: the arm emits A. -/
theorem outEmitsA : Obligations.OutEmitsA :=
  fun _ _ hs => exec_before_last hs (sequential_of_plain rfl (by simp))

/-- Settles O20: the reported byte is `encode` of the instruction, which is the row's byte. -/
theorem unassignedOpcodesReportAndContinue : Obligations.UnassignedOpcodesReportAndContinue := by
  intro p s hs
  exact ⟨exec_before_last hs (sequential_of_plain rfl (by simp)), exec_before_last hs (sequential_of_plain rfl (by simp)),
    exec_before_last hs (sequential_of_plain rfl (by simp)), exec_before_last hs (sequential_of_plain rfl (by simp))⟩

/-! ### At the last address it runs off (92_eei_decisions.md D3) -/

theorem exec_at_last {i : Instr} {s : State} (hs : ReadyAtLast s) (h : Sequential i s) :
    exec i s = .next ((armEffect i s).raise .runoff (BitVec.ofNat 8 s.memSize)) := by
  have hready : Ready s := ⟨hs.notHalted, hs.noFault, by have := hs.atLast; omega⟩
  have hpc : (armEffect i s).memSize ≤ (armEffect i s).PC.toNat := by
    rw [armEffect_PC, armEffect_memSize]
    exact (memSize_le_advance_iff hready hs.legalSize).2 hs.atLast
  rw [exec_of_sequential h, State.rangeCheck_of_outside _ _ ((armEffect_halted i s).trans hs.notHalted) hpc,
    armEffect_PC, ofNat_memSize hs.atLast]

/-- Settles O21: `exec_at_last` for the four forms. -/
theorem runOffAfterLoadsAndStores : Obligations.RunOffAfterLoadsAndStores := by
  intro addr s hs haddr
  have hrunoff (i : Instr) (haccess : AccessesData i) (hop : i.operand = addr) :
      exec i s = .next ((armEffect i s).raise .runoff (BitVec.ofNat 8 s.memSize)) :=
    exec_at_last hs (sequential_of_accessesData haccess (hop ▸ haddr))
  exact ⟨hrunoff (.lda addr) (by simp [AccessesData]) rfl, hrunoff (.sta addr) (by simp [AccessesData]) rfl,
    hrunoff (.ldb addr) (by simp [AccessesData]) rfl, hrunoff (.stb addr) (by simp [AccessesData]) rfl⟩

/-- Settles O22: `exec_at_last` with the ALU's outputs in byte arithmetic. -/
theorem runOffAfterArithmetic : Obligations.RunOffAfterArithmetic := by
  intro p s hs
  refine ⟨?_, ?_⟩
  · rw [exec_at_last hs (sequential_of_plain rfl (by simp)), armEffect, aluApply_add]
    rfl
  · rw [exec_at_last hs (sequential_of_plain rfl (by simp)), armEffect, aluApply_sub]
    rfl

/-- Settles O23: the arms' effects stand beside the record. -/
theorem runOffAfterTheOthers : Obligations.RunOffAfterTheOthers := by
  intro p s hs
  have hplain (i : Instr) (husesNot : i.usesOperand = false) (hhalt : i.opcode ≠ 14) :
      exec i s = .next ((armEffect i s).raise .runoff (BitVec.ofNat 8 s.memSize)) :=
    exec_at_last hs (sequential_of_plain husesNot hhalt)
  exact ⟨hplain (.nop p) rfl (by simp), hplain (.out p) rfl (by simp), hplain (.unassigned10 p) rfl (by simp),
    hplain (.unassigned11 p) rfl (by simp), hplain (.unassigned12 p) rfl (by simp),
    hplain (.unassigned13 p) rfl (by simp), fun hzero => exec_at_last hs (sequential_jnz hzero),
    fun hcarry => exec_at_last hs (sequential_jnc hcarry)⟩

/-! ### Taken jumps, and data addresses outside memory -/

theorem exec_jump_inside {i : Instr} {s : State} (h : JumpTaken i s) (hinside : i.operand.toNat < s.memSize) :
    exec i s = .next ((armEffect i s).setPC (i.operand.setWidth 8)) := by
  rw [exec_of_jumpTaken h, State.rangeCheck_of_inside]
  rwa [State.setPC_PC, State.setPC_memSize, armEffect_memSize, toNat_setWidth_nibble]

theorem exec_jump_outside {i : Instr} {s : State} (hs : Ready s) (h : JumpTaken i s)
    (hout : s.memSize ≤ i.operand.toNat) : exec i s =
      .next (((armEffect i s).setPC (i.operand.setWidth 8)).raise .jump (i.operand.setWidth 8)) := by
  have hpc : ((armEffect i s).setPC (i.operand.setWidth 8)).memSize ≤ (i.operand.setWidth 8 : Byte).toNat := by
    rwa [State.setPC_memSize, armEffect_memSize, toNat_setWidth_nibble]
  have hrunning : ((armEffect i s).setPC (i.operand.setWidth 8)).halted = false :=
    (armEffect_halted i s).trans hs.notHalted
  rw [exec_of_jumpTaken h, State.rangeCheck_of_outside _ _ hrunning hpc, State.setPC_PC]

/-- Settles O15: `exec_jump_inside` for the three ways of being taken. -/
theorem takenJumpsSetPC : Obligations.TakenJumpsSetPC := by
  intro target s _ hinside
  exact ⟨exec_jump_inside (.inl rfl) hinside, fun hzero => exec_jump_inside (.inr (.inl ⟨rfl, hzero⟩)) hinside,
    fun hcarry => exec_jump_inside (.inr (.inr ⟨rfl, hcarry⟩)) hinside⟩

/-- Settles O25: `exec_jump_outside` for the three ways of being taken. -/
theorem takenJumpOutsideMemoryFaults : Obligations.TakenJumpOutsideMemoryFaults := by
  intro target s hs hout
  exact ⟨exec_jump_outside hs (.inl rfl) hout, fun hzero => exec_jump_outside hs (.inr (.inl ⟨rfl, hzero⟩)) hout,
    fun hcarry => exec_jump_outside hs (.inr (.inr ⟨rfl, hcarry⟩)) hout⟩

/-- Settles O24: the four forms of `exec_of_dataFaults`. -/
theorem dataAddressOutsideMemoryFaults : Obligations.DataAddressOutsideMemoryFaults := by
  intro addr s _ hout
  exact ⟨exec_of_dataFaults ⟨.inl rfl, hout⟩, exec_of_dataFaults ⟨.inr (.inl rfl), hout⟩,
    exec_of_dataFaults ⟨.inr (.inr (.inl rfl)), hout⟩, exec_of_dataFaults ⟨.inr (.inr (.inr rfl)), hout⟩⟩

/-! ### Stores read back, and are fetched (20_memory.md section 5) -/

/-- A store inside memory, whose range check may still raise: what it leaves in memory. -/
theorem store_reads_back {i : Instr} {s : State} {byte : Byte} (hwf : Memory.wf s.mem = true) (h : Sequential i s)
    (hstore : (armEffect i s).mem = Memory.write s.mem i.operand.toNat byte) :
    ∃ t, exec i s = .next t ∧ Memory.read t.mem (dataAddress i.operand) = byte ∧
      ∀ a, a ≠ dataAddress i.operand → Memory.read t.mem a = Memory.read s.mem a := by
  refine ⟨_, exec_of_sequential h, ?_, fun a ha => ?_⟩
  · rw [State.rangeCheck_mem, hstore]
    exact Memory.read_write_same _ _ _ hwf
  · rw [State.rangeCheck_mem, hstore]
    exact Memory.read_write_other _ _ _ _ ha

/-- Settles O13: `store_reads_back` for the two stores. -/
theorem storedByteReadsBack : Obligations.StoredByteReadsBack := by
  intro addr s _ haddr hwf
  exact ⟨store_reads_back (i := .sta addr) hwf (sequential_of_accessesData (by simp [AccessesData]) haddr) rfl,
    store_reads_back (i := .stb addr) hwf (sequential_of_accessesData (by simp [AccessesData]) haddr) rfl⟩

/-- Settles O36: the state after the store is RUNNING with its PC at the stored cell, which reads back. -/
theorem storedInstructionExecutesNext : Obligations.StoredInstructionExecutesNext := by
  intro addr s hs hwf hdecode
  have hstep : step s = exec (.sta addr) s := (step_of_ready hs).trans (by rw [hdecode])
  refine ⟨fun hnext haddr => ?_, fun hown => ?_⟩
  · have hbefore : ReadyBeforeLast s := ⟨hs.notHalted, hs.noFault, by omega⟩
    have hexec := exec_before_last hbefore
      (sequential_of_accessesData (i := .sta addr) (by simp [AccessesData]) haddr)
    have hpc : (armEffect (.sta addr) s).PC.toNat = addr.toNat := by
      have := addr.isLt
      rw [armEffect_PC, advance_toNat (by omega), hnext]
    have hready : Ready (armEffect (.sta addr) s) :=
      ⟨(armEffect_halted _ s).trans hs.notHalted, (armEffect_fault _ s).trans hs.noFault,
        by rwa [hpc, armEffect_memSize]⟩
    refine ⟨armEffect (.sta addr) s, hstep.trans hexec, ?_⟩
    have hread : Memory.read (armEffect (.sta addr) s).mem addr.toNat = s.A := Memory.read_write_same _ _ _ hwf
    rw [step_of_ready hready, hpc, hread]
  · have haddr : addr.toNat < s.memSize := hown ▸ hs.pcInside
    obtain ⟨t, hexec, hread, -⟩ := store_reads_back (i := .sta addr) (byte := s.A) hwf
      (sequential_of_accessesData (by simp [AccessesData]) haddr) rfl
    exact ⟨t, hstep.trans hexec, exec_Ir hexec, hown ▸ hread⟩

/-! ### Instructions that differ in their latches (30_encoding.md R88; 44_system.md R166) -/

/-- An update of components that the range check neither looks at nor writes. -/
structure OutsideRangeCheck (update : State → State) : Prop where
  halted : ∀ u, (update u).halted = u.halted
  memSize : ∀ u, (update u).memSize = u.memSize
  PC : ∀ u, (update u).PC = u.PC
  raise : ∀ u kind addr, (update u).raise kind addr = update (u.raise kind addr)

theorem rangeCheck_update {update : State → State} (h : OutsideRangeCheck update) (u : State) (kind : FaultKind) :
    (update u).rangeCheck kind = update (u.rangeCheck kind) := by
  rcases u.rangeCheck_cases kind with ⟨hrunning, hout, heq⟩ | ⟨hhalted | hin, heq⟩
  · rw [heq, State.rangeCheck_of_outside _ _ ((h.halted u).trans hrunning) (by rwa [h.memSize, h.PC]), h.PC, h.raise]
  · rw [heq, State.rangeCheck_of_halted _ _ ((h.halted u).trans hhalted)]
  · rw [heq, State.rangeCheck_of_inside _ _ (by rwa [h.memSize, h.PC])]

/-- Where the arms differ by such an update, the instructions do. -/
theorem exec_update {update : State → State} (h : OutsideRangeCheck update) {i j : Instr} {s : State}
    (hj : Sequential j s) (harm : armEffect j s = update (armEffect i s)) :
    exec j s = .next (update ((armEffect i s).rangeCheck .runoff)) := by
  rw [exec_of_sequential hj, harm, rangeCheck_update h]

theorem outsideRangeCheck_Or (p : Nibble) : OutsideRangeCheck fun u => { u with Or := p } :=
  ⟨fun _ => rfl, fun _ => rfl, fun _ => rfl, fun _ _ _ => rfl⟩

theorem outsideRangeCheck_report (ir : Nibble) (diag : List DiagRecord) :
    OutsideRangeCheck fun u => { u with Ir := ir, diag := diag } :=
  ⟨fun _ => rfl, fun _ => rfl, fun _ => rfl, fun _ _ _ => rfl⟩

/-- Settles O34: NOP, ADD, SUB and OUT by `exec_update`; HLT has no range check. -/
theorem unusedOperandIsOnlyLatched : Obligations.UnusedOperandIsOnlyLatched := by
  intro p s
  have hlatch (i j : Instr) (hi : Sequential i s) (hj : Sequential j s)
      (harm : armEffect j s = { armEffect i s with Or := p }) :
      ∃ t, exec i s = .next t ∧ exec j s = .next { t with Or := p } :=
    ⟨_, exec_of_sequential hi, exec_update (outsideRangeCheck_Or p) hj harm⟩
  refine ⟨?nop, ?add, ?sub, ?hlt, ?out⟩
  case hlt => exact ⟨_, execHlt_eq 0 s, execHlt_eq p s⟩
  all_goals
    exact hlatch _ _ (sequential_of_plain rfl (by simp)) (sequential_of_plain rfl (by simp)) rfl

/-- Settles O35: NOP's state with the latch and the report put in, by `exec_update`. -/
theorem unassignedIsNopButForTheReport : Obligations.UnassignedIsNopButForTheReport := by
  intro p s
  have hreport (j : Instr) (hj : Sequential j s)
      (harm : armEffect j s =
        { armEffect (.nop p) s with Ir := j.opcode, diag := s.diag ++ [⟨s.PC, packByte j.opcode p⟩] }) :
      exec j s = .next { (armEffect (.nop p) s).rangeCheck .runoff with
        Ir := j.opcode, diag := s.diag ++ [⟨s.PC, packByte j.opcode p⟩] } :=
    exec_update (outsideRangeCheck_report _ _) hj harm
  exact ⟨_, exec_of_sequential (sequential_of_plain rfl (by simp)),
    hreport (.unassigned10 p) (sequential_of_plain rfl (by simp)) rfl,
    hreport (.unassigned11 p) (sequential_of_plain rfl (by simp)) rfl,
    hreport (.unassigned12 p) (sequential_of_plain rfl (by simp)) rfl,
    hreport (.unassigned13 p) (sequential_of_plain rfl (by simp)) rfl⟩

/-! ### The invariant, by the mode of the machine (10_state.md R37) -/

/-- The clauses of the invariant that hold alike in RUNNING, HALTED and FAULTED states. -/
structure DataInvariant (s : State) : Prop where
  sizeLegal : Config.legalMemSize s.memSize = true
  memCanonical : Memory.wf s.mem = true
  memInside : Memory.within s.memSize s.mem = true
  streamLengths : s.out.length + s.diag.length ≤ s.steps

theorem dataInvariant_of_invariant {s : State} (h : Invariant s) : DataInvariant s :=
  ⟨h.sizeLegal, h.memCanonical, h.memInside, h.streamLengths⟩

theorem invariant_of_running {s : State} (hdata : DataInvariant s) (hs : Ready s) : Invariant s where
  sizeLegal := hdata.sizeLegal
  memCanonical := hdata.memCanonical
  memInside := hdata.memInside
  streamLengths := hdata.streamLengths
  runningPC _ _ := hs.pcInside
  haltedPC hhalted := by simp [hs.notHalted] at hhalted
  faultedPC record hfault := by simp [hs.noFault] at hfault
  oneEnd _ := hs.noFault
  haltedIr hhalted := by simp [hs.notHalted] at hhalted

theorem invariant_of_halted {s : State} (hdata : DataInvariant s) (hhalted : s.halted = true) (hfault : s.fault = none)
    (hpc : s.PC.toNat ≤ s.memSize) (hIr : s.Ir = 14) : Invariant s where
  sizeLegal := hdata.sizeLegal
  memCanonical := hdata.memCanonical
  memInside := hdata.memInside
  streamLengths := hdata.streamLengths
  runningPC hrunning := by simp [hhalted] at hrunning
  haltedPC _ := hpc
  faultedPC record hrecord := by simp [hfault] at hrecord
  oneEnd _ := hfault
  haltedIr _ := hIr

theorem invariant_of_faulted {s : State} {record : OutOfBoundsAddress} (hdata : DataInvariant s)
    (hhalted : s.halted = false) (hfault : s.fault = some record) (hplace : faultPlace s record) : Invariant s where
  sizeLegal := hdata.sizeLegal
  memCanonical := hdata.memCanonical
  memInside := hdata.memInside
  streamLengths := hdata.streamLengths
  runningPC _ hnone := by simp [hfault] at hnone
  haltedPC h := by simp [hhalted] at h
  faultedPC other hother := by
    cases hfault.symm.trans hother
    exact hplace
  oneEnd h := by simp [hhalted] at h
  haltedIr h := by simp [hhalted] at h

/-- The range check keeps a RUNNING machine in the invariant if its record fits wherever it raises. -/
theorem invariant_rangeCheck {s : State} {kind : FaultKind} (hdata : DataInvariant (s.rangeCheck kind))
    (hhalted : s.halted = false) (hfault : s.fault = none)
    (hplace : s.memSize ≤ s.PC.toNat → faultPlace s ⟨kind, s.PC⟩) : Invariant (s.rangeCheck kind) := by
  have hrunning : (s.rangeCheck kind).halted = false := (State.rangeCheck_halted s kind).trans hhalted
  rcases Nat.lt_or_ge s.PC.toNat s.memSize with hin | hout
  · rw [State.rangeCheck_of_inside s kind hin] at hdata ⊢
    exact invariant_of_running hdata ⟨hhalted, hfault, hin⟩
  · rw [State.rangeCheck_of_outside s kind hhalted hout] at hdata ⊢
    exact invariant_of_faulted hdata hhalted rfl (hplace hout)

/-! ### Every instruction keeps it (10_state.md section 9) -/

theorem armEffect_mem_cases (i : Instr) (s : State) :
    (∃ byte, AccessesData i ∧ (armEffect i s).mem = Memory.write s.mem i.operand.toNat byte) ∨
      (armEffect i s).mem = s.mem := by
  rw [armEffect_mem]
  by_cases hsta : i.opcode = 2
  · exact .inl ⟨s.A, .inr (.inl hsta), if_pos hsta⟩
  by_cases hstb : i.opcode = 4
  · exact .inl ⟨s.B, .inr (.inr (.inr hstb)), by rw [if_neg hsta, if_pos hstb]⟩
  · exact .inr (by rw [if_neg hsta, if_neg hstb])

theorem wf_armEffect_mem (i : Instr) {s : State} (h : Memory.wf s.mem = true) :
    Memory.wf (armEffect i s).mem = true := by
  rcases armEffect_mem_cases i s with ⟨byte, -, hmem⟩ | hmem
  · rw [hmem]
    exact Memory.wf_write _ _ _ h
  · rwa [hmem]

/-- A store that does not fault writes inside memory. -/
theorem within_armEffect_mem {i : Instr} {s : State} (h : Memory.within s.memSize s.mem = true)
    (hnofault : ¬ DataFaults i s) : Memory.within s.memSize (armEffect i s).mem = true := by
  rcases armEffect_mem_cases i s with ⟨byte, haccess, hmem⟩ | hmem
  · rw [hmem]
    exact Memory.within_write _ _ _ _ h (Nat.lt_of_not_le fun hout => hnofault ⟨haccess, hout⟩)
  · rwa [hmem]

/-- No arm both emits and reports. -/
theorem armEffect_streams_le (i : Instr) (s : State) :
    (armEffect i s).out.length + (armEffect i s).diag.length ≤ s.out.length + s.diag.length + 1 := by
  rw [armEffect_out, armEffect_diag]
  by_cases hout : i.opcode = 15
  · have hdiag : ¬ (i.opcode = 10 ∨ i.opcode = 11 ∨ i.opcode = 12 ∨ i.opcode = 13) := by simp [hout]
    rw [if_pos hout, if_neg hdiag, List.length_append, List.length_singleton]
    omega
  · rw [if_neg hout]
    split
    · rw [List.length_append, List.length_singleton]
      omega
    · omega

theorem exec_dataInvariant {i : Instr} {s t : State} (hs : DataInvariant s) (h : exec i s = .next t) :
    DataInvariant t := by
  obtain ⟨hsteps, hsize⟩ := exec_steps_memSize h
  have hstreams := hs.streamLengths
  rcases exec_data h with ⟨-, hdata⟩ | ⟨hnofault, hdata⟩
  · refine ⟨?_, ?_, ?_, ?_⟩
    · rw [hsize]
      exact hs.sizeLegal
    · rw [hdata.mem]
      exact hs.memCanonical
    · rw [hsize, hdata.mem]
      exact hs.memInside
    · rw [hdata.out, hdata.diag, hsteps]
      omega
  · have hone := armEffect_streams_le i s
    refine ⟨?_, ?_, ?_, ?_⟩
    · rw [hsize]
      exact hs.sizeLegal
    · rw [hdata.mem]
      exact wf_armEffect_mem i hs.memCanonical
    · rw [hsize, hdata.mem]
      exact within_armEffect_mem hs.memInside hnofault
    · rw [hdata.out, hdata.diag, hsteps]
      omega

/-- Settles O47: the clauses on data by `exec_dataInvariant`, the place of PC by the four ends of the instruction. -/
theorem stepKeepsInvariant : Obligations.StepKeepsInvariant := by
  intro s t hinv h
  have hs := ready_of_step h
  have hexec := exec_of_step h
  have hdata := exec_dataInvariant (dataInvariant_of_invariant hinv) hexec
  have hpc := hs.pcInside
  obtain ⟨-, hmax⟩ := (legalMemSize_iff _).1 hinv.sizeLegal
  have hadvance : (s.PC + 1).toNat = s.PC.toNat + 1 := advance_toNat (by omega)
  generalize decode (Memory.read s.mem s.PC.toNat) = i at hexec
  cases exec_end hexec with
  | dataFault hd =>
    refine invariant_of_faulted hdata hs.notHalted rfl ⟨rfl, hd.2, ?_, ?_⟩
    · rw [State.raise_PC, State.beginStep_PC, hadvance]
      exact Nat.succ_pos _
    · rw [State.raise_PC, State.beginStep_PC, hadvance]
      exact hpc
  | jump hj =>
    refine invariant_rangeCheck hdata ((armEffect_halted i s).trans hs.notHalted)
      ((armEffect_fault i s).trans hs.noFault) fun hout => ⟨?_, rfl, hout⟩
    rw [State.setPC_PC, State.setPC_Or, armEffect_Or]
  | halt hh =>
    refine invariant_of_halted hdata rfl ((armEffect_fault i s).trans hs.noFault) ?_ ((armEffect_Ir i s).trans hh)
    rw [State.halt_PC, State.halt_memSize, armEffect_PC, armEffect_memSize, hadvance]
    exact hpc
  | sequential hq =>
    refine invariant_rangeCheck hdata ((armEffect_halted i s).trans hs.notHalted)
      ((armEffect_fault i s).trans hs.noFault) fun hout => ⟨Nat.le_antisymm ?_ hout, rfl⟩
    rw [armEffect_PC, armEffect_memSize, hadvance]
    exact hpc

/-- An operand that is an address of memory, for the instructions that use it. -/
theorem operand_lt_of_operandInside {memSize : Nat} {i : Instr} (h : operandInside memSize i = true)
    (huses : i.usesOperand = true) : i.operand.toNat < memSize := by
  simpa [operandInside, huses] using h

/-- A range check that finds PC inside memory leaves the machine RUNNING. -/
theorem ready_rangeCheck {u : State} {kind : FaultKind} (hu : Ready u) : Ready (u.rangeCheck kind) := by
  rwa [State.rangeCheck_of_inside u kind hu.pcInside]

/-- Settles O48: of the four ends, the data fault needs an operand outside memory, HLT halts, and the two range checks find PC
inside memory. -/
theorem safeOperandsNeverFault : Obligations.SafeOperandsNeverFault := by
  intro s hs hinside
  have hready : Ready s := ⟨hs.notHalted, hs.noFault, Nat.lt_of_succ_lt hs.nextInside⟩
  have hstep := step_of_ready hready
  generalize decode (Memory.read s.mem s.PC.toNat) = i at hinside hstep
  obtain ⟨t, hexec, hend⟩ := exec_end_exists i s
  have hoperand := operand_lt_of_operandInside hinside
  refine ⟨t, hstep.trans hexec, ?_⟩
  cases hend with
  | dataFault hd => exact absurd hd.2 (Nat.not_le.2 (hoperand (usesOperand_of_accessesData hd.1)))
  | jump hj =>
    have ht : Ready (((armEffect i s).setPC (i.operand.setWidth 8)).rangeCheck .jump) := by
      refine ready_rangeCheck ⟨(armEffect_halted i s).trans hs.notHalted, (armEffect_fault i s).trans hs.noFault, ?_⟩
      rw [State.setPC_PC, State.setPC_memSize, armEffect_memSize, toNat_setWidth_nibble]
      exact hoperand (usesOperand_of_jumpTaken hj)
    exact ⟨ht.noFault, .inr ht⟩
  | halt hh => exact ⟨(armEffect_fault i s).trans hs.noFault, .inl rfl⟩
  | sequential hq =>
    have ht : Ready ((armEffect i s).rangeCheck .runoff) := by
      refine ready_rangeCheck ⟨(armEffect_halted i s).trans hs.notHalted, (armEffect_fault i s).trans hs.noFault, ?_⟩
      rw [armEffect_PC, armEffect_memSize]
      exact Nat.lt_of_le_of_lt (advance_toNat_le s.PC) hs.nextInside
    exact ⟨ht.noFault, .inr ht⟩

/-! ### Reset (70_reset_and_hazards.md R200, R201) -/

theorem resetWith_eq_some_iff (memSize : Nat) (image : List Byte) (s : State) :
    resetWith memSize image = some s ↔
      Config.legalMemSize memSize = true ∧ image.length = memSize ∧ initialState memSize image = s := by
  rw [resetWith, Option.ite_none_right_eq_some, Option.some_inj, and_assoc]

/-- Settles O43: the guard of `resetWith`, negated. -/
theorem resetRefusesOtherImages : Obligations.ResetRefusesOtherImages := by
  intro memSize image
  rw [resetWith, ite_eq_right_iff, ← Bool.not_eq_true, Ne, ← not_and_or]
  exact ⟨fun h hlegal => Option.some_ne_none _ (h hlegal), fun h hlegal => absurd hlegal h⟩

/-- Settles O46: reset starts RUNNING at address 0 of a memory of at least one cell. -/
theorem invariantAtEveryReset : Obligations.InvariantAtEveryReset := by
  intro memSize image s h
  obtain ⟨hsize, hlength, rfl⟩ := (resetWith_eq_some_iff _ _ _).1 h
  obtain ⟨hpos, -⟩ := (legalMemSize_iff memSize).1 hsize
  have hinside : Memory.within memSize (Memory.ofBytes 0 image) = true :=
    Memory.within_ofBytes image (by omega)
  exact invariant_of_running ⟨hsize, Memory.wf_ofBytes image, hinside, Nat.le_refl 0⟩ ⟨rfl, rfl, hpos⟩

/-- Settles O44: the zero bytes are the ones the canonical memory does not list. -/
theorem referenceResetIsTheZeroImage : Obligations.ReferenceResetIsTheZeroImage :=
  resetWith_of_legal rfl List.length_replicate

/-- Settles O45: `invariantAtEveryReset` at the zero image. -/
theorem invariantAtReferenceReset : Obligations.InvariantAtReferenceReset :=
  invariantAtEveryReset _ _ _ referenceResetIsTheZeroImage

/-! ### The run controller (40_step_cycle.md R120, R121) -/

theorem running_iff (s : State) : s.running = true ↔ s.halted = false ∧ s.fault = none := by
  rw [State.running, Bool.and_eq_true, Bool.not_eq_true', Option.isNone_iff_eq_none]

theorem ready_of_running {s : State} (hinv : Invariant s) (h : s.running = true) : Ready s := by
  obtain ⟨hhalted, hfault⟩ := (running_iff s).1 h
  exact ⟨hhalted, hfault, hinv.runningPC hhalted hfault⟩

/-- A state whose steps have ended is a run's last state under every bound. -/
theorem runLoop_of_not_running {s : State} (h : s.running = false) (fuel maxSteps : Nat) :
    runLoop fuel maxSteps s = s := by
  cases fuel with
  | zero => rfl
  | succ fuel => exact if_neg fun hguard => by simp [h] at hguard

/-- One turn of the loop: a step is taken, or the state is the last one. -/
theorem runLoop_succ_cases (fuel maxSteps : Nat) (s : State) :
    (∃ t, s.running = true ∧ s.steps < maxSteps ∧ step s = .next t ∧
      runLoop (fuel + 1) maxSteps s = runLoop fuel maxSteps t) ∨
    ((s.running = true → s.steps < maxSteps → ¬ Ready s) ∧ runLoop (fuel + 1) maxSteps s = s) := by
  rw [runLoop]
  by_cases hguard : s.running = true ∧ s.steps < maxSteps
  · obtain ⟨hrunning, hsteps⟩ := hguard
    rw [if_pos ⟨hrunning, hsteps⟩]
    cases hstep : step s with
    | next t => exact .inl ⟨t, hrunning, hsteps, rfl, rfl⟩
    | fault r =>
      refine .inr ⟨fun _ _ hs => ?_, rfl⟩
      obtain ⟨t, ht⟩ := (stepExistsExactlyWhenReady s).2 hs
      cases hstep.symm.trans ht
    | refused r =>
      refine .inr ⟨fun _ _ hs => ?_, rfl⟩
      obtain ⟨t, ht⟩ := (stepExistsExactlyWhenReady s).2 hs
      cases hstep.symm.trans ht
  · exact .inr ⟨fun hrunning hsteps => absurd ⟨hrunning, hsteps⟩ hguard, if_neg hguard⟩

/-- What every permitted step keeps holds of the run's last state. -/
theorem runLoop_keeps {P : State → Prop} {maxSteps : Nat}
    (hstep : ∀ s t, P s → s.steps < maxSteps → step s = .next t → P t) (fuel : Nat) {s : State} (hs : P s) :
    P (runLoop fuel maxSteps s) := by
  induction fuel generalizing s with
  | zero => exact hs
  | succ fuel ih =>
    obtain ⟨t, -, hlt, hnext, hloop⟩ | ⟨-, hloop⟩ := runLoop_succ_cases fuel maxSteps s
    · rw [hloop]
      exact ih (hstep s t hs hlt hnext)
    · rwa [hloop]

/-- What holds along a run of the controller. -/
structure RunInvariant (memSize maxSteps : Nat) (s : State) : Prop where
  invariant : Invariant s
  size : s.memSize = memSize
  bounded : s.steps ≤ maxSteps

theorem step_runInvariant {memSize maxSteps : Nat} (s t : State) (hs : RunInvariant memSize maxSteps s)
    (hlt : s.steps < maxSteps) (h : step s = .next t) : RunInvariant memSize maxSteps t := by
  obtain ⟨hsteps, hsize⟩ := everyStepCountsAndKeepsSize s t h
  exact ⟨stepKeepsInvariant s t hs.invariant h, hsize.trans hs.size, hsteps ▸ hlt⟩

/-- With fuel for every permitted step the loop leaves a machine RUNNING only at the bound. -/
theorem runLoop_running_le {fuel maxSteps : Nat} {s : State} (hinv : Invariant s) (hfuel : maxSteps ≤ fuel + s.steps)
    (h : (runLoop fuel maxSteps s).running = true) : maxSteps ≤ (runLoop fuel maxSteps s).steps := by
  induction fuel generalizing s with
  | zero =>
    change maxSteps ≤ s.steps
    omega
  | succ fuel ih =>
    obtain ⟨t, -, -, hnext, hloop⟩ | ⟨hlast, hloop⟩ := runLoop_succ_cases fuel maxSteps s
    · rw [hloop] at h ⊢
      obtain ⟨hsteps, -⟩ := everyStepCountsAndKeepsSize s t hnext
      exact ih (stepKeepsInvariant s t hinv hnext) (by omega) h
    · rw [hloop] at h ⊢
      exact Nat.le_of_not_lt fun hlt => hlast h hlt (ready_of_running hinv h)

/-- What `run` answers: the loop from the reset state. -/
theorem run_eq_some_iff (memSize maxSteps : Nat) (image : List Byte) (s : State) :
    run memSize maxSteps image = some s ↔
      ∃ s₀, resetWith memSize image = some s₀ ∧ runLoop maxSteps maxSteps s₀ = s :=
  Option.map_eq_some_iff

/-- Reset has counted no step. -/
theorem reset_steps_memSize {memSize : Nat} {image : List Byte} {s : State} (h : resetWith memSize image = some s) :
    s.steps = 0 ∧ s.memSize = memSize := by
  obtain ⟨-, -, rfl⟩ := (resetWith_eq_some_iff _ _ _).1 h
  exact ⟨rfl, rfl⟩

/-- Settles O49: `RunInvariant` along the run, and `runLoop_running_le` for the third end. -/
theorem runEndsInOneOfThreeWays : Obligations.RunEndsInOneOfThreeWays := by
  intro memSize maxSteps image s hrun
  obtain ⟨s₀, hreset, hloop⟩ := (run_eq_some_iff _ _ _ _).1 hrun
  obtain ⟨hsteps, hsize⟩ := reset_steps_memSize hreset
  have hinv₀ := invariantAtEveryReset _ _ _ hreset
  have hs : RunInvariant memSize maxSteps s :=
    hloop ▸ runLoop_keeps step_runInvariant maxSteps ⟨hinv₀, hsize, by omega⟩
  refine ⟨hs.invariant, hs.size, hs.bounded, ?_⟩
  cases hfault : s.fault with
  | some record =>
    have hhalted : s.halted = false := by
      by_contra hhalted
      simp [hs.invariant.oneEnd (by simpa using hhalted)] at hfault
    simp [endCause, hfault, hhalted]
  | none =>
    cases hhalted : s.halted with
    | true => simp [endCause, hfault, hhalted]
    | false =>
      have hrunning : s.running = true := (running_iff s).2 ⟨hhalted, hfault⟩
      have hlimit : maxSteps ≤ s.steps := by
        subst hloop
        exact runLoop_running_le hinv₀ (by omega) hrunning
      simp [endCause, hfault, hhalted, hrunning, Nat.le_antisymm hs.bounded hlimit]

theorem core_run_succ (M : Host.Core) {s t : M.State} (h : M.step s = .next t) (n : Nat) :
    M.run (n + 1) s = M.run n t := by
  rw [Host.Core.run, h]

/-- The loop does nothing but step, and `steps` counts how often. -/
theorem runLoop_eq_core_run (fuel maxSteps : Nat) (s : State) :
    ∃ n, (runLoop fuel maxSteps s).steps = s.steps + n ∧
      Sys2Proof.core.run n s = .next (runLoop fuel maxSteps s) := by
  induction fuel generalizing s with
  | zero => exact ⟨0, rfl, rfl⟩
  | succ fuel ih =>
    obtain ⟨t, -, -, hnext, hloop⟩ | ⟨-, hloop⟩ := runLoop_succ_cases fuel maxSteps s
    · obtain ⟨n, hcount, hrun⟩ := ih t
      obtain ⟨hsteps, -⟩ := everyStepCountsAndKeepsSize s t hnext
      refine ⟨n + 1, by rw [hloop]; omega, ?_⟩
      rw [hloop]
      exact (core_run_succ Sys2Proof.core hnext n).trans hrun
    · exact ⟨0, by rw [hloop, Nat.add_zero], by rw [hloop]; rfl⟩

/-- Settles O50: `runLoop_eq_core_run` from reset, where the count starts at 0. -/
theorem runIsIteratedStep : Obligations.RunIsIteratedStep := by
  intro memSize maxSteps image s hrun
  obtain ⟨s₀, hreset, rfl⟩ := (run_eq_some_iff _ _ _ _).1 hrun
  obtain ⟨n, hcount, hcore⟩ := runLoop_eq_core_run maxSteps maxSteps s₀
  obtain ⟨hsteps, -⟩ := reset_steps_memSize hreset
  rw [hsteps, Nat.zero_add] at hcount
  exact ⟨s₀, hreset, hcount ▸ hcore⟩

/-- A loop that has ended by itself ends the same with more fuel and a larger bound. -/
theorem runLoop_larger_bound {m n : Nat} (hmn : m ≤ n) {fuel fuel' : Nat} (hfuel : fuel ≤ fuel') {s : State}
    (h : (runLoop fuel m s).running = false) : runLoop fuel' n s = runLoop fuel m s := by
  induction fuel generalizing fuel' s with
  | zero => exact runLoop_of_not_running h fuel' n
  | succ fuel ih =>
    obtain ⟨fuel'', rfl⟩ : ∃ k, fuel' = k + 1 := ⟨fuel' - 1, by omega⟩
    obtain ⟨t, hrunning, hlt, hnext, hloop⟩ | ⟨-, hloop⟩ := runLoop_succ_cases fuel m s
    · have hlarger : runLoop (fuel'' + 1) n s = runLoop fuel'' n t := by
        rw [runLoop, if_pos ⟨hrunning, Nat.lt_of_lt_of_le hlt hmn⟩, hnext]
      rw [hloop] at h ⊢
      rw [hlarger]
      exact ih (by omega) h
    · rw [hloop] at h ⊢
      exact runLoop_of_not_running h _ n

/-- Settles O51: `runLoop_larger_bound` from the same reset state. -/
theorem largerBoundChangesNothing : Obligations.LargerBoundChangesNothing := by
  intro memSize m n image s hmn hrun hended
  obtain ⟨s₀, hreset, rfl⟩ := (run_eq_some_iff _ _ _ _).1 hrun
  exact (run_eq_some_iff _ _ _ _).2 ⟨s₀, hreset, runLoop_larger_bound hmn hmn hended⟩

/-- Settles O52: with the bound 0 the loop is the identity. -/
theorem zeroBoundTakesNoStep : Obligations.ZeroBoundTakesNoStep :=
  fun memSize image => Option.map_id' (x := resetWith memSize image)

/-! ### The model's loading of one byte (log entry 8) -/

theorem tableByte_toNat (byte : Byte) : tableByte 8 byte.toNat = byte := by
  rw [tableByte, Nat.mod_eq_of_lt byte.isLt, BitVec.ofNat_toNat, BitVec.setWidth_eq]

theorem decodeTableWord_toNat (byte : Byte) : decodeTableWord 8 byte.toNat = some (decode byte) := by
  rw [decodeTableWord, tableByte_toNat]
  rfl

/-- Where PC is inside memory, loading is a write of that cell. -/
theorem withFetchWord_eq {s : State} (hs : Ready s) (byte : Byte) :
    s.withFetchWord 8 byte.toNat = s.storeByte s.PC.toNat byte := by
  rw [State.withFetchWord, tableByte_toNat, State.memWrite_inside s byte hs.pcInside]

/-- Settles O53: the written cell reads back as the byte, and is the one the step fetches. -/
theorem fetchWordIsExecuted : Obligations.FetchWordIsExecuted := by
  intro byte s hs hwf
  rw [withFetchWord_eq hs]
  refine ⟨decodeTableWord_toNat byte, ?_, fun a ha => Memory.read_write_other _ _ _ _ ha⟩
  have hready : Ready (s.storeByte s.PC.toNat byte) := ⟨hs.notHalted, hs.noFault, hs.pcInside⟩
  have hread : Memory.read (s.storeByte s.PC.toNat byte).mem (s.storeByte s.PC.toNat byte).PC.toNat = byte :=
    Memory.read_write_same _ _ _ hwf
  rw [step_of_ready hready, hread]

/-! ### The assembler (30_encoding.md section 5) -/

theorem assemble_zero (lines : List SourceLine) : assemble lines 0 = .ok [] := by
  cases lines <;> rfl

/-- A successful assembly of a line and the lines after it. -/
theorem assemble_cons_eq_ok {line : SourceLine} {rest : List SourceLine} {memSize : Nat} {bytes : List Byte}
    (h : assemble (line :: rest) (memSize + 1) = .ok bytes) :
    ∃ byte tail, assembleLine line = .ok byte ∧ assemble rest memSize = .ok tail ∧ bytes = byte :: tail := by
  rw [assemble] at h
  cases hline : assembleLine line with
  | error e => simp [hline] at h
  | ok byte =>
    cases hrest : assemble rest memSize with
    | error e => simp [hline, hrest] at h
    | ok tail =>
      simp only [hline, hrest, Except.ok.injEq] at h
      exact ⟨byte, tail, rfl, rfl, h.symm⟩

/-- Settles O54: by induction on the size, along the recursion of `assemble`. -/
theorem assembledImageHasMemSizeBytes : Obligations.AssembledImageHasMemSizeBytes := by
  intro lines memSize
  induction memSize generalizing lines with
  | zero =>
    intro bytes h
    cases (assemble_zero lines).symm.trans h
    exact ⟨rfl, fun _ _ hk => absurd hk (Nat.not_lt_zero _), fun _ _ hk => absurd hk (Nat.not_lt_zero _)⟩
  | succ memSize ih =>
    intro bytes h
    cases lines with
    | nil =>
      cases h
      refine ⟨List.length_replicate, fun k _ hk => ?_, fun k line _ hline => by cases hline⟩
      rw [List.getElem?_replicate, if_pos hk]
    | cons line rest =>
      obtain ⟨byte, tail, hbyte, htail, rfl⟩ := assemble_cons_eq_ok h
      obtain ⟨hlength, hzeros, hlines⟩ := ih rest tail htail
      refine ⟨congrArg Nat.succ hlength, fun k hle hk => ?_, fun k l hk hl => ?_⟩
      · obtain ⟨k, rfl⟩ := Nat.exists_eq_succ_of_ne_zero (Nat.ne_of_gt (Nat.lt_of_lt_of_le (Nat.succ_pos _) hle))
        exact hzeros k (Nat.le_of_succ_le_succ hle) (Nat.lt_of_succ_lt_succ hk)
      · cases k with
        | zero =>
          cases hl
          exact ⟨byte, hbyte, rfl⟩
        | succ k => exact hlines k l (Nat.lt_of_succ_lt_succ hk) hl

/-- Settles O55: the lines that fill the buffer are read, and then the recursion has no size left. -/
theorem linesBeyondCapacityAreDropped : Obligations.LinesBeyondCapacityAreDropped := by
  rintro lines more _ rfl
  induction lines with
  | nil => exact (assemble_zero _).trans (assemble_zero _).symm
  | cons line rest ih => simp only [List.cons_append, List.length_cons, assemble, ih]

/-- Settles O57: the guard of `parseOperand` on the decimal value. -/
theorem operandAboveFifteenIsRejected : Obligations.OperandAboveFifteenIsRejected := by
  intro line mnemonic operand n hline hdecimal
  rw [assembleLine_of_two_tokens hline, parseOperand, hdecimal]
  by_cases hn : n ≤ 15
  · simp only [if_pos hn]
    rfl
  · simp only [if_neg hn]
    rfl

end Sys2Proof.Proofs
